-- ==== Sys2Proof/Word.lean ====
section
/-! DEFINITION. The one word of the block: a byte (00_scope.md R7). -/

namespace Sys2Proof

/-- `u8` of R7 and R11: `page_no`, every `page_data` byte and every frame byte. -/
abbrev Byte := BitVec 8

end Sys2Proof
end

