-- ==== Sys2Proof/Config.lean ====
section
/-! DEFINITION. What an implementation fixes (the width `LEN_W` the reset state starts with) and the free values: what the
spec calls unspecified. A free value is a constant without a body applied to the index of the cycle (State's `draws`), so
nothing about it can be proved. -/

namespace Sys2Proof.Config

/-- `LEN_W` of the machine that `State.reset` describes: 16, the width the spec's vectors use (R8).
DESIGN CHOICE (log entry 1): the spec leaves `LEN_W` a parameter, so State carries it and no meaning reads this constant. -/
def lenW : Nat := 16

/-- `kind` after a reset edge (R31: unspecified). Free value, log entry 3. -/
opaque freeKind : Nat → BitVec 3

/-- `page_no` after a reset edge (R31: unspecified). Free value, log entry 3. -/
opaque freePageNo : Nat → Byte

/-- `remaining` after a reset edge (R31: unspecified), before it is cut to `LEN_W` bits. Free value, log entry 3. -/
opaque freeRemaining : Nat → Nat

/-- `hold` after a reset edge (R31: unspecified). Free value, log entry 3. -/
opaque freeHold : Nat → Byte

/-- `csum` after a reset edge (R31: unspecified). Free value, log entry 3. -/
opaque freeCsum : Nat → Byte

/-- `dout_data` in a cycle with `dout_valid = 0` (R144: unspecified). Free value, log entry 4. -/
opaque freeDoutData : Nat → Byte

/-- `cur` in the phases in which no rule reads it (R141: unused). Free value, log entry 4. -/
opaque freeCur : Nat → Byte

end Sys2Proof.Config
end

