-- ==== Sys2Proof/Syntax.lean ====
section
/-! DEFINITION. The five commands (30_encoding.md R83, opcode_table.json), one constructor per row of the opcode table, and
the triple in which the command port carries a command (R70). -/

namespace Sys2Proof

/-- A command with its fields, as R83 writes it. -/
inductive Instr where
  /-- `Ping{}` (R104). -/
  | ping
  /-- `Write{page_no, page_data}` (R105). -/
  | write (pageNo : Byte) (pageData : List Byte)
  /-- `Read{page_no}` (R106). -/
  | read (pageNo : Byte)
  /-- `Verify{page_no}` (R107). -/
  | verify (pageNo : Byte)
  /-- `Quit{}` (R108). -/
  | quit
  deriving DecidableEq, Repr

/-- The fields of the command port (R70, R73): what one command transfer moves. `len` is the value of `cmd_len`, a port of
`LEN_W` bits; a value of 2^LEN_W or more cannot be presented (R8). -/
structure PortCmd where
  kind   : BitVec 3
  pageNo : Byte
  len    : Nat
  deriving DecidableEq, Repr

end Sys2Proof
end

