-- ==== Sys2Proof/WellFormed.lean ====
section
/-! DEFINITION. Which commands the port of a machine with a given `LEN_W` can carry. There is one check: R103 says no command
validates its fields, and R8 bounds the number of `page_data` bytes. -/

namespace Sys2Proof

/-- Why a command is ill-formed. -/
inductive IllFormed where
  /-- More than 2^LEN_W - 1 `page_data` bytes (R8, R72). -/
  | pageDataTooLong
  deriving DecidableEq, Repr

/-- R8: "The largest `page_data` length the block can frame is `2^LEN_W - 1` bytes." -/
def Instr.check (lenW : Nat) : Instr → Option IllFormed
  | .ping => none
  | .write _ d => if d.length < 2 ^ lenW then none else some .pageDataTooLong
  | .read _ => none
  | .verify _ => none
  | .quit => none

/-- The command fits the port of a machine with this `LEN_W`. -/
def Instr.wf (lenW : Nat) (i : Instr) : Bool := (i.check lenW).isNone

/-- R8: the parameter is at least 1. -/
def lenWOk (lenW : Nat) : Bool := decide (1 ≤ lenW)

end Sys2Proof
end

