-- ==== Sys2Proof/Decode.lean ====
section
/-! DEFINITION. The two encodings of a command (30_encoding.md): its payload bytes (the wire form, R74, R100) and the command
port's triple (R70 to R73, R84), each with a decoder that is total and rejects by name, and an encoder. -/

namespace Sys2Proof

/-- Why bytes or a port value are no command. -/
inductive DecodeError where
  /-- No byte at all: a payload has at least its opcode (R74). -/
  | emptyPayload
  /-- Payload byte 0 is none of 0x10 to 0x14 (R74: "matched exactly (mask 0xFF)"). -/
  | unknownOpcode (b : Byte)
  /-- The payload of a Write, Read or Verify ends before `page_no` (R74). -/
  | missingPageNo (b : Byte)
  /-- Bytes after the payload of a Ping, Quit, Read or Verify (R74). -/
  | trailingBytes (b : Byte)
  /-- More `page_data` bytes than `cmd_len` can count (R8). -/
  | pageDataTooLong
  /-- `cmd_kind` 5, 6 or 7 (R71, R82). -/
  | reservedTag (k : BitVec 3)
  /-- The bytes given for a Write are not `cmd_len` many (R72: "exactly `cmd_len` bytes"). -/
  | pageDataCount
  deriving DecidableEq, Repr

/-- The opcode of R21. -/
def opcode : Instr → Byte
  | .ping => 0x10
  | .write _ _ => 0x11
  | .read _ => 0x12
  | .verify _ => 0x13
  | .quit => 0x14

/-- The command tag `cmd_kind` of R71. -/
def tag : Instr → BitVec 3
  | .ping => 0
  | .write _ _ => 1
  | .read _ => 2
  | .verify _ => 3
  | .quit => 4

/-- The number of bytes the shortest payload with this opcode has (R76, with `L = 0`). -/
def minPayloadLen (b : Byte) : Nat :=
  if b = 0x11 ∨ b = 0x12 ∨ b = 0x13 then 2 else 1

/-- Decoding of a Ping's or Quit's payload after its opcode `b` (R74: no byte follows). -/
def decodeNoField (b : Byte) (i : Instr) : List Byte → Except DecodeError Instr
  | [] => .ok i
  | _ :: _ => .error (.trailingBytes b)

/-- Decoding of a Read's or Verify's payload after its opcode `b` (R74: `page_no` follows). -/
def decodePageNo (b : Byte) (mk : Byte → Instr) : List Byte → Except DecodeError Instr
  | [] => .error (.missingPageNo b)
  | [p] => .ok (mk p)
  | _ :: _ :: _ => .error (.trailingBytes b)

/-- Decoding of a Write's payload after its opcode `b` (R74: `page_no`, then every further byte is `page_data`). -/
def decodeWrite (lenW : Nat) (b : Byte) : List Byte → Except DecodeError Instr
  | [] => .error (.missingPageNo b)
  | p :: d => if d.length < 2 ^ lenW then .ok (.write p d) else .error .pageDataTooLong

/-- The command whose payload these bytes are (R74). DEDUCED (log entry 18): the spec lays out payloads and has no decoder;
a byte string that is the payload of no command is rejected. -/
def decode (lenW : Nat) : List Byte → Except DecodeError Instr
  | [] => .error .emptyPayload
  | b :: rest =>
    if b = 0x10 then decodeNoField b .ping rest
    else if b = 0x11 then decodeWrite lenW b rest
    else if b = 0x12 then decodePageNo b .read rest
    else if b = 0x13 then decodePageNo b .verify rest
    else if b = 0x14 then decodeNoField b .quit rest
    else .error (.unknownOpcode b)

/-- `Payload(c)` of 40_commands.md R100: the opcode, then the command's fields. -/
def encode : Instr → List Byte
  | .ping => [0x10]
  | .write p d => [0x11, p] ++ d
  | .read p => [0x12, p]
  | .verify p => [0x13, p]
  | .quit => [0x14]

/-- The payload length `n` of R76. -/
def payloadLen : Instr → Nat
  | .ping => 1
  | .write _ d => 2 + d.length
  | .read _ => 2
  | .verify _ => 2
  | .quit => 1

/-- The port values that present a command (R84), "any" driven as 0 as the spec's programs do. -/
def encodePort : Instr → PortCmd
  | .ping => ⟨0, 0, 0⟩
  | .write p d => ⟨1, p, d.length⟩
  | .read p => ⟨2, p, 0⟩
  | .verify p => ⟨3, p, 0⟩
  | .quit => ⟨4, 0, 0⟩

/-- The bytes a command takes from the input stream (R72, R84). -/
def dinBytes : Instr → List Byte
  | .ping => []
  | .write _ d => d
  | .read _ => []
  | .verify _ => []
  | .quit => []

/-- The command that these port values present together with these input-stream bytes (R71, R72, R84). A field that the
command ignores, and the bytes given for a command that takes none, are not looked at (R72). -/
def decodePort (lenW : Nat) (pc : PortCmd) (din : List Byte) : Except DecodeError Instr :=
  if pc.kind = 0 then .ok .ping
  else if pc.kind = 1 then
    if pc.len < 2 ^ lenW then
      if din.length = pc.len then .ok (.write pc.pageNo din) else .error .pageDataCount
    else .error .pageDataTooLong
  else if pc.kind = 2 then .ok (.read pc.pageNo)
  else if pc.kind = 3 then .ok (.verify pc.pageNo)
  else if pc.kind = 4 then .ok .quit
  else .error (.reservedTag pc.kind)

/-- The packed word `CMD` of R73: `cmd_kind` in bits 2:0, `cmd_page_no` in bits 10:3, `cmd_len` from bit 11 up. -/
def packCmd (pc : PortCmd) : Nat :=
  pc.kind.toNat + 2 ^ 3 * pc.pageNo.toNat + 2 ^ 11 * pc.len

/-- The fields of a packed word `CMD` of `11 + LEN_W` bits (R73). -/
def unpackCmd (lenW : Nat) (w : Nat) : PortCmd :=
  ⟨BitVec.ofNat 3 w, BitVec.ofNat 8 (w / 2 ^ 3), w / 2 ^ 11 % 2 ^ lenW⟩

/-- The bytes of a table word: bits 7:0 first (opcode_table.json numbers bit 0 as the first byte's least significant). -/
def tableBytes : (nbytes w : Nat) → List Byte
  | 0, _ => []
  | k + 1, w => BitVec.ofNat 8 w :: tableBytes k (w / 256)

/-- The payload that a table word with zeros above it stands for: zero bytes up to the shortest payload with that opcode.
DESIGN CHOICE (log entry 17): the wire has no length field (R81), so a Write whose table word gives no `page_data` has none. -/
def padPayload : List Byte → List Byte
  | [] => []
  | b :: rest => b :: (rest ++ List.replicate (minPayloadLen b - 1 - rest.length) 0)

/-- The payload of a table word of `nbits` bits. -/
def tablePayload (nbits w : Nat) : List Byte :=
  padPayload (tableBytes (nbits / 8) w)

/-- The command the decoder reads from a table word (an opcode byte, and what follows it). -/
def decodeTableWord (nbits w : Nat) : Option Instr :=
  match decode Config.lenW (tablePayload nbits w) with
  | .ok i => some i
  | .error _ => none

end Sys2Proof
end

