-- ==== Sys2Proof/Machine/State.lean ====
section
/-! DEFINITION. The block's registers (10_state.md R24 to R28), the host's side of the ports (R23), and the reasons a step can
stop. -/

namespace Sys2Proof.Machine

/-- The register `phase` (R24). `unreachable` is the value 7, which R24 names "Unreachable". -/
inductive Phase where
  | idle
  | hdr
  | opc
  | pno
  | data
  | csum
  | ftr
  | unreachable
  deriving DecidableEq, Repr

/-- What the host drives on the input ports in one cycle (R23). `clk` is the step itself. `cmdLen` is the value on the
`LEN_W` wires of `cmd_len`. -/
structure Inputs where
  rst       : Bool
  cmdValid  : Bool
  cmdKind   : BitVec 3
  cmdPageNo : Byte
  cmdLen    : Nat
  dinValid  : Bool
  dinData   : Byte
  doutReady : Bool
  errClr    : Bool
  deriving DecidableEq, Repr

/-- What the block drives on the output ports in one cycle (R23). -/
structure Outputs where
  cmdReady   : Bool
  dinReady   : Bool
  doutValid  : Bool
  doutData   : Byte
  doutLast   : Bool
  busy       : Bool
  errIllegal : Bool
  deriving DecidableEq, Repr

/-- What one output transfer delivers (R57): a frame byte with its `dout_last`. -/
structure OutByte where
  data : Byte
  last : Bool
  deriving DecidableEq, Repr

/-- The machine. The first nine fields are the block's registers. `lenW` is the parameter `LEN_W` (R8), which no step changes.
The rest is the model's own (log entries 3, 6, 8 and 10): what the host will drive, and a record of what was transferred. -/
@[ext]
structure State where
  /-- R24. -/
  phase     : Phase
  /-- R25: the index of the next header byte. -/
  hidx      : BitVec 2
  /-- R25: false (0) when the high nibble comes next, true (1) when the low nibble does. -/
  nib       : Bool
  /-- R26: the accepted command tag. -/
  kind      : BitVec 3
  /-- R26: the accepted `cmd_page_no`. -/
  pageNo    : Byte
  /-- R26: how many `page_data` bytes of a Write are still to be taken, a value of `LEN_W` bits. -/
  remaining : Nat
  /-- R27: the payload byte whose low nibble comes next. -/
  hold      : Byte
  /-- R27: the XOR accumulator. -/
  csum      : Byte
  /-- R28: the sticky illegal-command flag. -/
  err       : Bool
  /-- R8: `LEN_W`. -/
  lenW      : Nat
  /-- What the host drives in this cycle and the coming ones, this cycle's values first. -/
  inputs    : List Inputs
  /-- R231: the `page_data` byte that was offered with `rst = 0` and has not been taken since. -/
  dinOffer  : Option Byte
  /-- The output transfers so far, the first one first. -/
  sent      : List OutByte
  /-- The input transfers since the last accepted command, the first one first. -/
  taken     : List Byte
  /-- The index of this cycle's free values. -/
  draws     : Nat
  deriving DecidableEq, Repr

/-- Why the machine stops with a fault. -/
inductive Fault where
  /-- `phase = 7` in a cycle with `rst = 0` (R157, 93 U4). Raised by `cycle`, so by every command's meaning and by `step`.
  Safe: the state is unreachable, and nothing is claimed of what follows it. -/
  | phaseUnreachable
  deriving DecidableEq, Repr

/-- Why the model gives a cycle no meaning. -/
inductive Refusal where
  /-- An instruction without a meaning yet. Raised by no arm of `exec` now. Safe. -/
  | notModelled (mnemonic : String)
  /-- The host withdrew or changed an offered `page_data` byte before its transfer: "A model treats a violation as a host
  move it does not admit" (R231, 93 U7). Raised by `cycle`. Safe: the model stops where the hardware goes on. -/
  | dinUnstable
  /-- The accept of a Write with more `page_data` bytes than the `LEN_W` bits of `cmd_len` can count: "It cannot be
  presented" (R8, 93 U11). Raised by `cycle`. Safe: no port can carry the value. -/
  | cmdLenNotPresentable
  deriving DecidableEq, Repr

/-- The machine right after a reset edge (R31): `phase`, `hidx`, `nib` and `err` as the spec says. `kind`, `page_no`,
`remaining`, `hold` and `csum` are unspecified by R31; they are 0 here (DESIGN CHOICE, log entry 2). The host has no schedule
yet and nothing has been transferred. -/
def State.reset : State where
  phase     := .idle
  hidx      := 0
  nib       := false
  kind      := 0
  pageNo    := 0
  remaining := 0
  hold      := 0
  csum      := 0
  err       := false
  lenW      := Config.lenW
  inputs    := []
  dinOffer  := none
  sent      := []
  taken     := []
  draws     := 0

end Sys2Proof.Machine
end

