-- ==== Sys2Proof/Machine/Operands.lean ====
section
/-! DEFINITION. What a cycle reads: the constants (R20), the input ports of the cycle, and the payload multiplexer (R141). -/

namespace Sys2Proof.Machine

/-- R20. -/
def version : Byte := 0x01

/-- R20: `HEADER`. -/
def header : List Byte := [0xF0, 0x00, 0x70, version]

/-- R20: `FOOTER`. -/
def footer : List Byte := [0xF7]

/-- The footer byte, as R144 writes it. -/
def footerByte : Byte := 0xF7

/-- `HEADER[hidx]` (R20): every 2-bit index is in range. -/
def headerByte (hidx : BitVec 2) : Byte := header.getD hidx.toNat 0

/-- R71: `opcode = 0x10 + zext_8(cmd_kind)`. -/
def opcodeOfTag (kind : BitVec 3) : Byte := 0x10 + kind.setWidth 8

/-- R12: `b >> 4`. -/
def hiNibble (b : Byte) : Byte := b >>> 4

/-- R12: `b & 0x0F`. -/
def loNibble (b : Byte) : Byte := b &&& 0x0F

/-- The commands that have a `page_no` in their payload: Write, Read and Verify (R101, and `next_phase(OPC, ..)` of R153). -/
def hasPageNo (kind : BitVec 3) : Bool := kind == 1 || kind == 2 || kind == 3

/-- R71, R82: the tags 0 to 4 are legal, 5 to 7 are reserved. -/
def legalTag (kind : BitVec 3) : Bool := decide (kind.toNat ≤ 4)

/-- The numbers of R24. -/
def Phase.code : Phase → BitVec 3
  | .idle => 0
  | .hdr => 1
  | .opc => 2
  | .pno => 3
  | .data => 4
  | .csum => 5
  | .ftr => 6
  | .unreachable => 7

/-- What the host drives once its schedule is used up: no command, no reset, no clear, a sink that takes every byte, and an
offered `page_data` byte kept on offer as R231 asks. DESIGN CHOICE (log entry 7). -/
def quietInputs (dinOffer : Option Byte) : Inputs where
  rst       := false
  cmdValid  := false
  cmdKind   := 0
  cmdPageNo := 0
  cmdLen    := 0
  dinValid  := dinOffer.isSome
  dinData   := dinOffer.getD 0
  doutReady := true
  errClr    := false

/-- The values on the input ports in this cycle (R14: "Port names are read as the values on the port during the cycle"). -/
def State.inputNow (s : State) : Inputs :=
  match s.inputs with
  | inp :: _ => inp
  | [] => quietInputs s.dinOffer

/-- The command port's fields in this cycle (R70). -/
def State.portCmd (s : State) : PortCmd :=
  ⟨s.inputNow.cmdKind, s.inputNow.cmdPageNo, s.inputNow.cmdLen⟩

/-- The multiplexer input `cur` (R141). In the phases in which "no rule reads cur" it is a free value. -/
def State.cur (s : State) : Byte :=
  match s.phase with
  | .opc => opcodeOfTag s.kind
  | .pno => s.pageNo
  | .data => s.inputNow.dinData
  | .csum => s.csum
  | .idle => Config.freeCur s.draws
  | .hdr => Config.freeCur s.draws
  | .ftr => Config.freeCur s.draws
  | .unreachable => Config.freeCur s.draws

/-- `r - 1` on a register of `LEN_W` bits (R12: modulo `2^N`). -/
def decLen (lenW r : Nat) : Nat := (r + (2 ^ lenW - 1)) % 2 ^ lenW

end Sys2Proof.Machine
end

