-- ==== Sys2Proof/Machine/Flags.lean ====
section
/-! DEFINITION. The block's one flag `err` (10_state.md R28, R35; 60_exceptions.md R201 to R203) and its status outputs (R32). -/

namespace Sys2Proof.Machine

/-- The update of `err` at every clock edge (R203): reset, then set, then clear. -/
def errNext (rst setIllegal errClr err : Bool) : Bool :=
  if rst then false
  else if setIllegal then true
  else if errClr then false
  else err

/-- R32: `busy = (phase != IDLE)`. -/
def State.busy (s : State) : Bool := decide (s.phase ≠ .idle)

/-- R28, R32: `err_illegal = err`. -/
def State.errIllegal (s : State) : Bool := s.err

/-- R201: the one cause of an exception, for models that enumerate causes. -/
def excIllegalCmd : Nat := 1

/-- R201: "the flag is its code": `EXC_ILLEGAL_CMD` while the flag is set, and 0 for no exception. -/
def State.excCode (s : State) : Nat := if s.err then excIllegalCmd else 0

end Sys2Proof.Machine
end

