-- ==== Sys2Proof/Machine/Ops.lean ====
section
/-! DEFINITION. The shared operations of a cycle (42_sequencer.md): the outputs (R140 to R145), the transfers (R29), the edges
(R150 to R155), the reset edge (R220), taking IllegalCommand (R201), and the cycle they make up. -/

namespace Sys2Proof.Machine

/-! ### Outputs (R140 to R145, R220) -/

/-- R140. -/
def State.cmdReady (s : State) : Bool := !s.inputNow.rst && decide (s.phase = .idle)

/-- R142. -/
def State.dinReady (s : State) : Bool :=
  !s.inputNow.rst && decide (s.phase = .data) && !s.nib && s.inputNow.doutReady

/-- The case distinction of R143. The value 7 of `phase` has no row there: with `rst = 0` the cycle faults (93 U4). -/
def State.offersByte (s : State) : Bool :=
  match s.phase with
  | .idle => false
  | .hdr => true
  | .opc => true
  | .pno => true
  | .data => s.nib || s.inputNow.dinValid
  | .csum => true
  | .ftr => true
  | .unreachable => false

/-- R143. -/
def State.doutValid (s : State) : Bool := !s.inputNow.rst && s.offersByte

/-- R144, the rows for `OPC`, `PNO`, `DATA` and `CSUM`. -/
def State.nibbleByte (s : State) : Byte := if s.nib then loNibble s.hold else hiNibble s.cur

/-- R144. "In any cycle with `dout_valid = 0`, `dout_data` is unspecified": a free value. -/
def State.doutData (s : State) : Byte :=
  if s.doutValid then
    match s.phase with
    | .hdr => headerByte s.hidx
    | .opc => s.nibbleByte
    | .pno => s.nibbleByte
    | .data => s.nibbleByte
    | .csum => s.nibbleByte
    | .ftr => footerByte
    | .idle => Config.freeDoutData s.draws
    | .unreachable => Config.freeDoutData s.draws
  else Config.freeDoutData s.draws

/-- R145. -/
def State.doutLast (s : State) : Bool := !s.inputNow.rst && decide (s.phase = .ftr)

/-- The output ports in this cycle (R23). -/
def State.outputs (s : State) : Outputs where
  cmdReady   := s.cmdReady
  dinReady   := s.dinReady
  doutValid  := s.doutValid
  doutData   := s.doutData
  doutLast   := s.doutLast
  busy       := s.busy
  errIllegal := s.errIllegal

/-! ### Transfers (R29) -/

/-- R29. -/
def State.fireCmd (s : State) : Bool := !s.inputNow.rst && s.inputNow.cmdValid && s.cmdReady

/-- R29. -/
def State.fireIn (s : State) : Bool := !s.inputNow.rst && s.inputNow.dinValid && s.dinReady

/-- R29. -/
def State.fireOut (s : State) : Bool := !s.inputNow.rst && s.doutValid && s.inputNow.doutReady

/-- What an output transfer of this cycle delivers (R30, R57). -/
def State.outByte (s : State) : OutByte := ⟨s.doutData, s.doutLast⟩

/-! ### The exception (R201 to R207) -/

/-- Taking IllegalCommand (R201, R203): `set_illegal = 1` in this cycle, so `err` becomes 1 even if `err_clr` is 1. Nothing
else changes, and control goes nowhere (R206). -/
def takeIllegalCommand (s : State) : State :=
  { s with err := errNext false true s.inputNow.errClr s.err }

/-- Every other cycle's update of `err` (R203). There is no return from the exception (R207): the host's `err_clr` clears the
flag here, and reset clears it in `resetEdge`. -/
def clearErrByHost (s : State) : State :=
  { s with err := errNext false false s.inputNow.errClr s.err }

/-! ### Edges of the sequencer (R150 to R154, R220) -/

/-- The latching of a legal command (R150). The record `taken` starts again with each command. -/
def latchCmd (pc : PortCmd) (s : State) : State :=
  { s with
    kind      := pc.kind
    pageNo    := pc.pageNo
    remaining := if pc.kind = 1 then pc.len else 0
    csum      := 0x00
    hidx      := 0
    nib       := false
    phase     := .hdr
    taken     := [] }

/-- R150: the accept of a legal tag latches the command; that of a reserved tag raises IllegalCommand. -/
def acceptCmd (pc : PortCmd) (s : State) : State :=
  if legalTag pc.kind then clearErrByHost (latchCmd pc s) else takeIllegalCommand s

/-- R151: a header transfer. -/
def headerEdge (s : State) : State :=
  if s.hidx = 3 then { s with hidx := 0, phase := .opc } else { s with hidx := s.hidx + 1 }

/-- R152: a high-nibble transfer. -/
def highNibbleEdge (s : State) : State :=
  { s with
    hold      := s.cur
    nib       := true
    csum      := if s.phase = .csum then s.csum else s.csum ^^^ s.cur
    remaining := if s.phase = .data then decLen s.lenW s.remaining else s.remaining }

/-- `next_phase` (R153). It is taken in `OPC`, `PNO`, `DATA` and `CSUM` only; the other rows keep the phase. -/
def nextPhase (ph : Phase) (k : BitVec 3) (r : Nat) : Phase :=
  match ph with
  | .opc => if hasPageNo k then .pno else .csum
  | .pno => if k = 1 ∧ r ≠ 0 then .data else .csum
  | .data => if r ≠ 0 then .data else .csum
  | .csum => .ftr
  | .idle => .idle
  | .hdr => .hdr
  | .ftr => .ftr
  | .unreachable => .unreachable

/-- R153: a low-nibble transfer. -/
def lowNibbleEdge (s : State) : State :=
  { s with nib := false, phase := nextPhase s.phase s.kind s.remaining }

/-- R152 and R153: the transfer in one of the phases `OPC`, `PNO`, `DATA` and `CSUM`. -/
def nibbleEdge (s : State) : State := if s.nib then lowNibbleEdge s else highNibbleEdge s

/-- R154: the footer transfer. -/
def footerEdge (s : State) : State := { s with phase := .idle }

/-- What an output transfer does to the registers, by phase (R151 to R154). -/
def transferEdge (s : State) : State :=
  match s.phase with
  | .idle => s
  | .hdr => headerEdge s
  | .opc => nibbleEdge s
  | .pno => nibbleEdge s
  | .data => nibbleEdge s
  | .csum => nibbleEdge s
  | .ftr => footerEdge s
  | .unreachable => s

/-- The registers after a clock edge with `rst = 0` (R150 to R155, R203). `offer` is what the host offers on the command
port in this cycle. A cycle without its transfer keeps them (R155). -/
def registerEdge (offer : Option PortCmd) (s : State) : State :=
  if s.cmdReady then
    match offer with
    | some pc => acceptCmd pc s
    | none => clearErrByHost s
  else clearErrByHost (if s.fireOut then transferEdge s else s)

/-- The registers after a clock edge with `rst = 1` (R220, R31). The unspecified ones get this cycle's free values. -/
def resetRegisters (s : State) : State :=
  { s with
    phase     := .idle
    hidx      := 0
    nib       := false
    err       := errNext true false s.inputNow.errClr s.err
    kind      := Config.freeKind s.draws
    pageNo    := Config.freePageNo s.draws
    remaining := Config.freeRemaining s.draws % 2 ^ s.lenW
    hold      := Config.freeHold s.draws
    csum      := Config.freeCsum s.draws }

/-- The `page_data` byte that the host owes in this cycle (R231): the one it offered and that was not taken, "in every following
cycle until `fire_in`", cycles with `rst = 1` among them. A reset in the middle of a frame (or from `phase = 7`) ends the duty,
since R223 has the host flush the untaken bytes there. DEDUCED (log entry 10). -/
def State.dinOwed (s : State) : Option Byte :=
  if s.inputNow.rst && !decide (s.phase = .idle) then none else s.dinOffer

/-- The `page_data` byte that is owed from this cycle on (R231). A cycle with `rst = 0` and no `fire_in` starts the duty for the
byte on offer, and one with `rst = 1` keeps the duty there is. -/
def State.nextDinOffer (s : State) : Option Byte :=
  if s.inputNow.rst then s.dinOwed
  else if s.inputNow.dinValid && !s.fireIn then some s.inputNow.dinData
  else none

/-- The end of the cycle that starts in `s`, with the registers of `t`: the transfers of the cycle are recorded (R29, R30), the
host's next values come onto the ports, and the next cycle has free values of its own. -/
def endCycle (s t : State) : State :=
  { t with
    inputs   := s.inputs.tail
    dinOffer := s.nextDinOffer
    sent     := if s.fireOut then s.sent ++ [s.outByte] else s.sent
    taken    := if s.fireIn then t.taken ++ [s.inputNow.dinData] else t.taken
    draws    := s.draws + 1 }

/-! ### The cycle -/

/-- R231 is kept in this cycle: a byte that is owed is on offer, unchanged. -/
def State.dinStable (s : State) : Bool :=
  match s.dinOwed with
  | some b => s.inputNow.dinValid && s.inputNow.dinData == b
  | none => true

/-- The offered command is one that the port can carry (R8): a Write's `cmd_len` has `LEN_W` bits. -/
def presentable (lenW : Nat) : Option PortCmd → Bool
  | some pc => !(pc.kind == 1) || decide (pc.len < 2 ^ lenW)
  | none => true

/-- One clock cycle and the edge that ends it, with `offer` on the command port. With `rst = 0` a state that is no state of the
machine faults (93 U4). A host move that the spec does not admit is refused: a withdrawn or changed `din` offer (R231 with 93 U7)
and, where an accept looks at the fields (R29), a length the port cannot carry (R8 with 93 U11). Reset goes before every rule of
the block (R220). -/
def cycle (offer : Option PortCmd) (s : State) : Host.Outcome State Fault Refusal :=
  if s.inputNow.rst = false ∧ s.phase = .unreachable then .fault .phaseUnreachable
  else if s.dinStable = false then .refused .dinUnstable
  else if s.inputNow.rst then .next (endCycle s (resetRegisters s))
  else if s.cmdReady = true ∧ presentable s.lenW offer = false then .refused .cmdLenNotPresentable
  else .next (endCycle s (registerEdge offer s))

/-! ### Fetching the command on the port -/

/-- What the command port shows in a cycle. -/
inductive Fetched where
  /-- `cmd_valid = 0`. -/
  | nothing
  /-- A command of the opcode table. -/
  | command (i : Instr)
  /-- A value that is no command: a reserved tag, or a length the port cannot carry. -/
  | other (pc : PortCmd)
  deriving DecidableEq, Repr

/-- The command on the port in this cycle (R70 to R72). The port carries the number of `page_data` bytes and not the bytes,
which follow on the input stream, so a Write is fetched with that many zero bytes in their place (DESIGN CHOICE, log entry 9);
the meaning of a Write looks at their number only. -/
def fetch (s : State) : Fetched :=
  if s.inputNow.cmdValid then
    match decodePort s.lenW s.portCmd (List.replicate s.inputNow.cmdLen 0) with
    | .ok i => .command i
    | .error _ => .other s.portCmd
  else .nothing

/-! ### Placing a command on the port -/

/-- A quiet cycle with `din` idle. -/
def readyCycle : Inputs := quietInputs none

/-- The host's values for the cycle in which it offers the command with this payload (R71, R84). A payload whose first byte
is none of 0x10 to 0x17 has no tag, and nothing is offered. -/
def offerPayload (payload : List Byte) : Inputs :=
  match payload with
  | [] => readyCycle
  | b :: rest =>
    if 0x10 ≤ b.toNat ∧ b.toNat ≤ 0x17 then
      { readyCycle with
        cmdValid  := true
        cmdKind   := BitVec.ofNat 3 b.toNat
        cmdPageNo := rest.headD 0
        cmdLen    := rest.length - 1 }
    else readyCycle

/-- The two cycles in which a full-rate `DATA` phase takes and sends one byte (R142, R152, R153). -/
def dataCycles (b : Byte) : List Inputs :=
  [{ readyCycle with dinValid := true, dinData := b }, readyCycle]

/-- The host's cycles after the accept that deliver these `page_data` bytes at full rate: four header, two opcode and two
`page_no` transfers come first (R156). -/
def deliverData (d : List Byte) : List Inputs :=
  if d.isEmpty then [] else List.replicate 8 readyCycle ++ d.flatMap dataCycles

/-- `s` with this payload's command offered in this very cycle: the block is idle, no `din` byte is on offer, and a Write's
`page_data` bytes follow. -/
def placePayload (payload : List Byte) (s : State) : State :=
  { s with
    phase    := .idle
    hidx     := 0
    nib      := false
    dinOffer := none
    inputs   := offerPayload payload :: (deliverData (payload.drop 2) ++ s.inputs.tail) }

end Sys2Proof.Machine
end

