-- ==== Sys2Proof/Machine/Commands.lean ====
section
/-! DEFINITION. The meanings of the five commands (40_commands.md R104 to R108). A command's meaning is the clock cycle in
which the host offers it on the command port (R70, R84): in `IDLE` it is accepted and its frame follows, one byte per output
transfer, in the cycles after it (R150 to R154); in any other phase it waits untaken while the frame in progress goes on
(R140); with `rst = 1` it is not taken (R220). A field the command ignores is what the port carries (R72). DEDUCED (log entry 5). -/

namespace Sys2Proof.Machine

/-- Ping (R104): tag 0; `cmd_page_no` and `cmd_len` are ignored, and `page_no` latches what the port carries. -/
def execPing (s : State) : Host.Outcome State Fault Refusal :=
  cycle (some ⟨0, s.inputNow.cmdPageNo, s.inputNow.cmdLen⟩) s

/-- Write (R105): tag 1, `page_no`, and the number of `page_data` bytes; the bytes follow on the input stream. -/
def execWrite (pageNo : Byte) (pageData : List Byte) (s : State) : Host.Outcome State Fault Refusal :=
  cycle (some ⟨1, pageNo, pageData.length⟩) s

/-- Read (R106): tag 2, `page_no`; `cmd_len` is ignored. -/
def execRead (pageNo : Byte) (s : State) : Host.Outcome State Fault Refusal :=
  cycle (some ⟨2, pageNo, s.inputNow.cmdLen⟩) s

/-- Verify (R107): tag 3, `page_no`; `cmd_len` is ignored. -/
def execVerify (pageNo : Byte) (s : State) : Host.Outcome State Fault Refusal :=
  cycle (some ⟨3, pageNo, s.inputNow.cmdLen⟩) s

/-- Quit (R108): tag 4; it has no effect on the block but its frame. -/
def execQuit (s : State) : Host.Outcome State Fault Refusal :=
  cycle (some ⟨4, s.inputNow.cmdPageNo, s.inputNow.cmdLen⟩) s

end Sys2Proof.Machine
end

