-- ==== Sys2Proof/Machine/Dispatch.lean ====
section
/-! DEFINITION. One arm per command of the opcode table, each a direct call of its meaning. -/

namespace Sys2Proof.Machine

/-- The clock cycle in which command `i` is offered on the command port. -/
def exec (i : Instr) (s : State) : Host.Outcome State Fault Refusal :=
  match i with
  | .ping => Sys2Proof.Machine.execPing s
  | .write pageNo pageData => Sys2Proof.Machine.execWrite pageNo pageData s
  | .read pageNo => Sys2Proof.Machine.execRead pageNo s
  | .verify pageNo => Sys2Proof.Machine.execVerify pageNo s
  | .quit => Sys2Proof.Machine.execQuit s

end Sys2Proof.Machine
end

