-- ==== Sys2Proof/Machine/Step.lean ====
section
/-! DEFINITION. One step is one rising edge of `clk` (R23, R150 to R155). -/

namespace Sys2Proof.Machine

/-- The cycle that starts in `s`: with a command on the port it is that command's meaning, with no command or with a value
that is no command it is the cycle itself. -/
def step (s : State) : Host.Outcome State Fault Refusal :=
  match fetch s with
  | .nothing => cycle none s
  | .command i => exec i s
  | .other pc => cycle (some pc) s

/-- `s` with the table word's command offered on the command port in this very cycle (log entry 17). -/
def State.withFetchWord (s : State) (nbits w : Nat) : State :=
  placePayload (tablePayload nbits w) s

end Sys2Proof.Machine
end

