-- ==== Sys2Proof/Machine/Frame.lean ====
section
/-! DEFINITION. The frame level (41_frame_pipeline.md R120 to R125): the pure function `Frame(c)` that the source makes
normative, and the reassembly of R131. No cycle of the machine calls it; statements compare what a run sends with it. -/

namespace Sys2Proof.Machine

/-- R120: the XOR fold, from 0x00. -/
def checksum (payload : List Byte) : Byte := payload.foldl (fun acc b => acc ^^^ b) 0x00

/-- R121. -/
def checksummed (payload : List Byte) : List Byte := payload ++ [checksum payload]

/-- R122: the high nibble first. -/
def nibbles (b : Byte) : List Byte := [hiNibble b, loNibble b]

/-- R123. -/
def nibbleStream (payload : List Byte) : List Byte := (checksummed payload).flatMap nibbles

/-- R124. -/
def wrapFrame (body : List Byte) : List Byte := header ++ body ++ footer

/-- R125: `Frame(c) = Wrap(NS(Payload(c)))`. -/
def frame (i : Instr) : List Byte := wrapFrame (nibbleStream (encode i))

/-- R131: `(hi << 4) | lo`, pair by pair. A last byte without a partner is dropped. -/
def reassemble : List Byte → List Byte
  | hi :: lo :: rest => (hi <<< 4 ||| lo) :: reassemble rest
  | [_] => []
  | [] => []

/-- The output transfers that deliver a frame (R57, R145): `dout_last` is 1 with the last byte and 0 with every other. -/
def outBytes : List Byte → List OutByte
  | [] => []
  | [b] => [⟨b, true⟩]
  | b :: c :: rest => ⟨b, false⟩ :: outBytes (c :: rest)

end Sys2Proof.Machine
end

