-- ==== Sys2Proof/Safety.lean ====
section
/-! DEFINITION. The terms that statements use: the invariants of the sequencer (42_sequencer.md R157), a command on the port
(R84), runs of several cycles, and what two states share when nothing the host can see tells them apart (R31, R33). -/

namespace Sys2Proof.Machine

/-! ### The command in progress, and the invariants of R157 -/

/-- The command whose frame is in progress, with the `page_data` bytes taken so far (R26, R72). -/
def State.commandInProgress (s : State) : Option Instr :=
  if s.kind = 0 then some .ping
  else if s.kind = 1 then some (.write s.pageNo s.taken)
  else if s.kind = 2 then some (.read s.pageNo)
  else if s.kind = 3 then some (.verify s.pageNo)
  else if s.kind = 4 then some .quit
  else none

/-- The payload bytes that have passed through a high-nibble transfer in this frame (R157, invariant 8). -/
def State.passed (s : State) : List Byte :=
  match s.phase with
  | .idle => []
  | .hdr => []
  | .opc => if s.nib then [opcodeOfTag s.kind] else []
  | .pno => if s.nib then [opcodeOfTag s.kind, s.pageNo] else [opcodeOfTag s.kind]
  | .data => [opcodeOfTag s.kind, s.pageNo] ++ s.taken
  | .csum => s.commandInProgress.elim [] encode
  | .ftr => s.commandInProgress.elim [] encode
  | .unreachable => []

/-- The invariants of R157, numbered as there, with what the model's own fields add: the register widths (R8, R26), the record
of the bytes taken, and the byte that `hold` keeps between its two nibbles (R27). -/
structure SeqInv (s : State) : Prop where
  /-- R157, 1. -/
  phase_reachable : s.phase ≠ .unreachable
  /-- R157, 2. -/
  nib_high : s.phase = .idle ∨ s.phase = .hdr ∨ s.phase = .ftr → s.nib = false
  /-- R157, 3. -/
  hidx_zero : s.phase ≠ .hdr → s.hidx = 0
  /-- R157, 4. -/
  kind_legal : s.phase ≠ .idle → s.kind.toNat ≤ 4
  /-- R157, 5. -/
  pno_kind : s.phase = .pno → s.kind = 1 ∨ s.kind = 2 ∨ s.kind = 3
  /-- R157, 6. -/
  data_kind : s.phase = .data → s.kind = 1
  /-- R157, 6. -/
  data_remaining : s.phase = .data → s.nib = false → 1 ≤ s.remaining
  /-- R157, 7. -/
  remaining_zero : s.phase ≠ .idle → s.kind ≠ 1 → s.remaining = 0
  /-- R157, 8. -/
  csum_passed : s.phase ≠ .idle → s.csum = checksum s.passed
  /-- R8. -/
  lenW_pos : 1 ≤ s.lenW
  /-- R26: `remaining` has `LEN_W` bits. -/
  remaining_width : s.remaining < 2 ^ s.lenW
  /-- No byte is taken before `DATA`, and none for a command other than Write (R158). -/
  taken_nil : s.phase ≠ .idle → (s.kind ≠ 1 ∨ s.phase = .hdr ∨ s.phase = .opc ∨ s.phase = .pno) → s.taken = []
  /-- R27: between its two nibbles the current payload byte is in `hold`. -/
  hold_opcode : s.phase = .opc → s.nib = true → s.hold = opcodeOfTag s.kind
  /-- R27. -/
  hold_pageNo : s.phase = .pno → s.nib = true → s.hold = s.pageNo
  /-- R27. -/
  hold_data : s.phase = .data → s.nib = true → s.taken.getLast? = some s.hold
  /-- R27. -/
  hold_csum : s.phase = .csum → s.nib = true → s.hold = s.csum

/-! ### A command on the port -/

/-- The port fields that `i` has (R84); the fields it ignores may hold anything. -/
def portFits (i : Instr) (pc : PortCmd) : Bool :=
  match i with
  | .ping => pc.kind == 0
  | .write p d => pc.kind == 1 && pc.pageNo == p && pc.len == d.length
  | .read p => pc.kind == 2 && pc.pageNo == p
  | .verify p => pc.kind == 3 && pc.pageNo == p
  | .quit => pc.kind == 4

/-- The host offers `i` on the command port in this cycle (R84). -/
def State.offers (s : State) (i : Instr) : Bool := s.inputNow.cmdValid && portFits i s.portCmd

/-- The cycle is one in which an offered command is accepted: no reset, `IDLE`, and the host keeps R231. -/
def State.canAccept (s : State) : Bool :=
  !s.inputNow.rst && decide (s.phase = .idle) && s.dinStable

/-- The cycle answers a next state whatever command is on the port: no reset, a phase of the machine, and the host keeps R231. -/
def State.running (s : State) : Bool :=
  !s.inputNow.rst && decide (s.phase ≠ .unreachable) && s.dinStable

/-! ### Runs -/

/-- `n` cycles. -/
def runCycles : Nat → State → Host.Outcome State Fault Refusal
  | 0, s => .next s
  | n + 1, s =>
    match step s with
    | .next t => runCycles n t
    | .fault r => .fault r
    | .refused r => .refused r

/-- Each of the next `n` cycles answers a next state, and `p` holds of the state each of them starts in. -/
def along (p : State → Bool) : Nat → State → Bool
  | 0, _ => true
  | n + 1, s =>
    p s &&
      match step s with
      | .next t => along p n t
      | .fault _ => false
      | .refused _ => false

/-- What `f` reads off the states in which the next `n` cycles start, in order. -/
def collect {α : Type} (f : State → List α) : Nat → State → List α
  | 0, _ => []
  | n + 1, s =>
    f s ++
      match step s with
      | .next t => collect f n t
      | .fault _ => []
      | .refused _ => []

/-- The output transfer of this cycle, if there is one. -/
def State.sends (s : State) : List OutByte := if s.fireOut then [s.outByte] else []

/-- The `page_data` byte taken in this cycle, if one is. -/
def State.takes (s : State) : List Byte := if s.fireIn then [s.inputNow.dinData] else []

/-- The phase of this cycle's output transfer, if there is one. -/
def State.sendPhase (s : State) : List Phase := if s.fireOut then [s.phase] else []

/-- The port fields of the legal command accepted in this cycle, if one is. -/
def State.accepts (s : State) : List PortCmd :=
  if s.fireCmd && legalTag s.inputNow.cmdKind then [s.portCmd] else []

/-- No reset in this cycle. -/
def State.notReset (s : State) : Bool := !s.inputNow.rst

/-- The cycle transfers the last byte of a frame. -/
def State.endsFrame (s : State) : Bool := s.fireOut && s.doutLast

/-- No reset, and the frame does not end in this cycle. -/
def State.frameGoesOn (s : State) : Bool := s.notReset && !s.endsFrame

/-- The frame that is under way in `u` ends: after `m` cycles without a reset and without its last byte, the cycle in `v`
transfers the last byte, and `t` is the state after that transfer (R160). -/
structure FrameEnds (u : State) (m : Nat) (v t : State) : Prop where
  goesOn : along State.frameGoesOn m u = true
  run : runCycles m u = .next v
  last : v.endsFrame = true
  final : step v = .next t

/-- The host lets this cycle make progress (R161): no reset, R231 kept, the sink takes the byte, and in `DATA` with `nib = 0`
a `page_data` byte is on offer. -/
def State.hostReady (s : State) : Bool :=
  s.notReset && s.dinStable && s.inputNow.doutReady &&
    (!(decide (s.phase = .data) && !s.nib) || s.inputNow.dinValid)

/-- The host keeps the frame waiting in this cycle (R161): no reset, R231 kept, and the sink does not take the byte, or in
`DATA` with `nib = 0` no `page_data` byte is on offer. -/
def State.hostWithholds (s : State) : Bool :=
  s.notReset && s.dinStable &&
    (!s.inputNow.doutReady || (decide (s.phase = .data) && !s.nib && !s.inputNow.dinValid))

/-! ### What one state shares with another -/

/-- `t` has the same registers as `s` (R24 to R28), but for `err`. -/
def sameRegisters (s t : State) : Prop :=
  t.phase = s.phase ∧ t.hidx = s.hidx ∧ t.nib = s.nib ∧ t.kind = s.kind ∧ t.pageNo = s.pageNo ∧
    t.remaining = s.remaining ∧ t.hold = s.hold ∧ t.csum = s.csum

/-- Two states that differ at most in what R31 and R72 say nothing depends on, and in `err` (R33, R35): the registers that are
written before they are read (`kind`, `page_no`, `remaining` and `csum` in `IDLE`, `hold` with `nib = 0`), and a `page_no` that
the command in progress does not have. -/
structure Alike (s t : State) : Prop where
  phase : t.phase = s.phase
  hidx : t.hidx = s.hidx
  nib : t.nib = s.nib
  kind : s.phase ≠ .idle → t.kind = s.kind
  pageNo : s.phase ≠ .idle → hasPageNo s.kind = true → t.pageNo = s.pageNo
  remaining : s.phase ≠ .idle → t.remaining = s.remaining
  csum : s.phase ≠ .idle → t.csum = s.csum
  hold : s.nib = true → t.hold = s.hold
  lenW : t.lenW = s.lenW
  inputs : t.inputs = s.inputs
  dinOffer : t.dinOffer = s.dinOffer

/-- What the host may read of the output ports is the same (R144: `dout_data` counts only with `dout_valid = 1`), but
for `err_illegal`, which is `err` (R32). -/
def samePorts (s t : State) : Prop :=
  t.cmdReady = s.cmdReady ∧ t.dinReady = s.dinReady ∧ t.doutValid = s.doutValid ∧ t.doutLast = s.doutLast ∧
    t.busy = s.busy ∧ (s.doutValid = true → t.doutData = s.doutData)

/-- The host values of two cycles differ at most on the command port (R62). -/
def sameButCommand (a b : Inputs) : Prop :=
  a.rst = b.rst ∧ a.dinValid = b.dinValid ∧ a.dinData = b.dinData ∧ a.doutReady = b.doutReady ∧ a.errClr = b.errClr

/-- `s` with these values on the input ports in this cycle. -/
def State.withPorts (s : State) (inp : Inputs) : State := { s with inputs := inp :: s.inputs.tail }

end Sys2Proof.Machine
end

