-- ==== Sys2Proof/Certificates/Slice0/Obligations.lean ====
section
/-! DEFINITION. The statements for the provers, in the order of OBLIGATIONS.json. Every statement about a cycle holds for every
`LEN_W`, every schedule of the host and every free value. -/

open Sys2Proof Sys2Proof.Machine

/-! ### Encodings -/

/-- R71 and R21: tag, opcode and reserved tags. -/
def Obligations.TagsAndOpcodes : Prop :=
  (opcode .ping = 0x10 ∧ tag .ping = 0) ∧
  (∀ p d, opcode (.write p d) = 0x11 ∧ tag (.write p d) = 1) ∧
  (∀ p, opcode (.read p) = 0x12 ∧ tag (.read p) = 2) ∧
  (∀ p, opcode (.verify p) = 0x13 ∧ tag (.verify p) = 3) ∧
  (opcode .quit = 0x14 ∧ tag .quit = 4) ∧
  (∀ i, opcode i = 0x10 + (tag i).setWidth 8 ∧ (opcode i).extractLsb' 3 5 = 0b00010 ∧ (opcode i).extractLsb' 0 3 = tag i) ∧
  (∀ w (pc : PortCmd) d, 5 ≤ pc.kind.toNat → decodePort w pc d = .error (.reservedTag pc.kind))

/-- R100: the payload of every command. -/
def Obligations.PayloadOfCommand : Prop :=
  encode .ping = [0x10] ∧
  (∀ p d, encode (.write p d) = [0x11, p] ++ d) ∧
  (∀ p, encode (.read p) = [0x12, p]) ∧
  (∀ p, encode (.verify p) = [0x13, p]) ∧
  encode .quit = [0x14]

/-- R76, R78, R128: the payload length `n` of every command, and the frame length `4 + 2(n + 1) + 1`. -/
def Obligations.FrameLength : Prop :=
  (∀ i, (encode i).length = payloadLen i ∧ (frame i).length = 4 + 2 * ((encode i).length + 1) + 1) ∧
  (payloadLen .ping = 1 ∧ (frame .ping).length = 9) ∧
  (∀ p d, payloadLen (.write p d) = 2 + d.length ∧ (encodePort (.write p d)).len = d.length ∧
    (frame (.write p d)).length = 11 + 2 * d.length) ∧
  (∀ p, payloadLen (.read p) = 2 ∧ (frame (.read p)).length = 11) ∧
  (∀ p, payloadLen (.verify p) = 2 ∧ (frame (.verify p)).length = 11) ∧
  (payloadLen .quit = 1 ∧ (frame .quit).length = 9) ∧
  (∀ i, 9 ≤ (frame i).length) ∧
  (∀ i, i.wf 16 = true → (frame i).length ≤ 131081) ∧
  (∃ i, i.wf 16 = true ∧ (frame i).length = 131081)

/-- Decoding the payload of a well-formed command gives the command back with every operand, and nothing else decodes to it.
That the decoder rejects every other byte string is the model's choice (log entry 18: the spec has no payload decoder). -/
def Obligations.DecodeEncode : Prop :=
  ∀ (w : Nat) (bs : List Byte) (i : Instr), decode w bs = .ok i ↔ i.wf w = true ∧ encode i = bs

/-- R84 both ways: the port values of a well-formed command present it, and port values that present a command fit it. -/
def Obligations.PortRoundTrip : Prop :=
  (∀ w i, i.wf w = true → decodePort w (encodePort i) (dinBytes i) = .ok i) ∧
  (∀ i, portFits i (encodePort i) = true) ∧
  (∀ w pc i, i.wf w = true → portFits i pc = true → decodePort w pc (dinBytes i) = .ok i) ∧
  (∀ w pc d i, decodePort w pc d = .ok i →
    portFits i pc = true ∧ i.wf w = true ∧ (pc.kind = 1 → dinBytes i = d))

/-- R73: the packed word `CMD` has `11 + LEN_W` bits, holds the three fields at their places, and unpacks to them. -/
def Obligations.CmdWordLayout : Prop :=
  ∀ (w : Nat) (pc : PortCmd), pc.len < 2 ^ w →
    packCmd pc < 2 ^ (11 + w) ∧
    packCmd pc % 2 ^ 3 = pc.kind.toNat ∧
    packCmd pc / 2 ^ 3 % 2 ^ 8 = pc.pageNo.toNat ∧
    packCmd pc / 2 ^ 11 = pc.len ∧
    unpackCmd w (packCmd pc) = pc

/-- A few words written out from the spec: table words and packed command words decode to what they stand for. That the lone
opcode byte 0x11 stands for a Write with `page_no` 0x00 and no `page_data` is the model's choice (log entry 17). -/
def Obligations.WordsDecode : Prop :=
  decodeTableWord 8 0b00010000 = some .ping ∧
  decodeTableWord 8 0b00010001 = some (.write 0 []) ∧
  decodeTableWord 16 0b00000101_00010010 = some (.read 0b00000101) ∧
  decodeTableWord 16 0b00000111_00010011 = some (.verify 0b00000111) ∧
  decodeTableWord 8 0b00010100 = some .quit ∧
  decodeTableWord 8 0b00010101 = none ∧
  decodePort 16 (unpackCmd 16 0x1019) [0x01, 0x02] = .ok (.write 0x03 [0x01, 0x02]) ∧
  decodePort 16 (unpackCmd 16 0x92) [] = .ok (.read 0x12) ∧
  decodePort 16 (unpackCmd 16 0x5) [] = .error (.reservedTag 5)

/-! ### The frame pipeline -/

/-- R120, R121 and R126: the fold starts from 0x00, takes every payload byte once and not itself, and does not depend on their
order. -/
def Obligations.ChecksumIsXorFold : Prop :=
  (∀ p, checksum p = p.foldl (fun acc b => acc ^^^ b) 0x00) ∧
  (∀ i, checksummed (encode i) = encode i ++ [(encode i).foldl (fun acc b => acc ^^^ b) 0x00]) ∧
  (∀ p q, checksum (p ++ q) = checksum p ^^^ checksum q) ∧
  (∀ b, checksum [b] = b) ∧
  (∀ p q, p.Perm q → checksum p = checksum q)

/-- R122 and R126: the two nibbles of a byte, each at most 15, lose no bit. -/
def Obligations.NibbleSplit : Prop :=
  ∀ b : Byte, nibbles b = [b >>> 4, b &&& 0x0F] ∧
    b >>> 4 = (b.extractLsb' 4 4).setWidth 8 ∧ b &&& 0x0F = (b.extractLsb' 0 4).setWidth 8 ∧
    (b >>> 4).toNat ≤ 15 ∧ (b &&& 0x0F).toNat ≤ 15 ∧ b = ((b >>> 4) <<< 4 ||| (b &&& 0x0F))

/-- R77: every byte of a frame by its index. -/
def Obligations.FrameFormat : Prop :=
  ∀ i, let P := encode i; let n := P.length; let C := checksum P
    (frame i)[0]? = some 0xF0 ∧ (frame i)[1]? = some 0x00 ∧ (frame i)[2]? = some 0x70 ∧ (frame i)[3]? = some 0x01 ∧
    (∀ (k : Nat) b, P[k]? = some b → (frame i)[4 + 2 * k]? = some (b >>> 4) ∧ (frame i)[5 + 2 * k]? = some (b &&& 0x0F)) ∧
    (frame i)[4 + 2 * n]? = some (C >>> 4) ∧ (frame i)[5 + 2 * n]? = some (C &&& 0x0F) ∧
    (frame i)[6 + 2 * n]? = some 0xF7 ∧ (frame i).length = 7 + 2 * n

/-- R129: header and footer. -/
def Obligations.HeaderAndFooter : Prop :=
  ∀ i, (frame i).take 4 = [0xF0, 0x00, 0x70, 0x01] ∧ (frame i).getLast? = some 0xF7

/-- R104 to R108 on the wire: the checksum of every command, and the whole frame of those that have a fixed length. -/
def Obligations.CommandFrames : Prop :=
  frame .ping = [0xF0, 0x00, 0x70, 0x01, 0x01, 0x00, 0x01, 0x00, 0xF7] ∧
  (∀ p d, checksum (encode (.write p d)) = 0x11 ^^^ p ^^^ checksum d) ∧
  (∀ p, checksum (encode (.read p)) = 0x12 ^^^ p ∧
    frame (.read p) =
      ([0xF0, 0x00, 0x70, 0x01, 0x01, 0x02, p >>> 4, p &&& 0x0F, (0x12 ^^^ p) >>> 4, (0x12 ^^^ p) &&& 0x0F, 0xF7] : List Byte)) ∧
  (∀ p, checksum (encode (.verify p)) = 0x13 ^^^ p ∧
    frame (.verify p) =
      ([0xF0, 0x00, 0x70, 0x01, 0x01, 0x03, p >>> 4, p &&& 0x0F, (0x13 ^^^ p) >>> 4, (0x13 ^^^ p) &&& 0x0F, 0xF7] : List Byte)) ∧
  frame .quit = [0xF0, 0x00, 0x70, 0x01, 0x01, 0x04, 0x01, 0x04, 0xF7]

/-- R79 and R130: every byte from index 4 up to the footer is a nibble. -/
def Obligations.NibbleRange : Prop :=
  ∀ i (k : Nat) b, 4 ≤ k → k + 1 < (frame i).length → (frame i)[k]? = some b → b.toNat ≤ 15 ∧ b.extractLsb' 4 4 = 0

/-- R131: the nibble pairs reassemble to the payload and its checksum. -/
def Obligations.RoundTrip : Prop :=
  ∀ i, let n := (encode i).length; let R := reassemble (((frame i).drop 4).take (2 * (n + 1)))
    R.take n = encode i ∧ R.drop n = [checksum (encode i)]

/-- R132: the reassembled checksum is the XOR fold of the reassembled payload, and all reassembled bytes fold to 0x00. -/
def Obligations.ChecksumLaw : Prop :=
  ∀ i, let n := (encode i).length; let R := reassemble (((frame i).drop 4).take (2 * (n + 1)))
    R[n]? = some (checksum (R.take n)) ∧ checksum R = 0x00

/-- R133: different commands give different frames. -/
def Obligations.FramesAreInjective : Prop :=
  ∀ i j, frame i = frame j → i = j

/-- R80: 0xF0 stands only first, 0xF7 only last, and every other byte is 0x70 at index 2 or at most 0x0F; so no frame is a
proper prefix of another. 0x00 and 0x01 do occur as nibble bytes. -/
def Obligations.ByteClasses : Prop :=
  (∀ i (k : Nat) b, (frame i)[k]? = some b →
    (b = 0xF0 ↔ k = 0) ∧ (b = 0xF7 ↔ k + 1 = (frame i).length) ∧ (b = 0x70 ↔ k = 2) ∧
    (k ≠ 0 → k ≠ 2 → k + 1 ≠ (frame i).length → b.toNat ≤ 15)) ∧
  (∀ i, (frame i).take 4 = [0xF0, 0x00, 0x70, 0x01]) ∧
  (∀ i j, frame i <+: frame j → i = j) ∧
  ((frame .ping)[4]? = some 0x01 ∧ (frame .ping)[5]? = some 0x00)

/-! ### A step is the offered command's meaning -/

/-- In a cycle in which the host offers a command that the port can carry, a step is the command's meaning; otherwise it is the
cycle with what is on the port. Nothing is added around it. -/
def Obligations.StepRunsOfferedCommand : Prop :=
  (∀ (s : State) i, s.offers i = true → i.wf s.lenW = true → step s = exec i s) ∧
  (∀ s : State, s.inputNow.cmdValid = false → step s = cycle none s) ∧
  (∀ s : State, s.inputNow.cmdValid = true → 5 ≤ s.inputNow.cmdKind.toNat → step s = cycle (some s.portCmd) s)

/-! ### The commands: each is accepted in IDLE and changes nothing but what R150 writes -/

/-- R104 in the accept cycle (R150): Ping. The next state is given whole, so it is the frame of the command as well: no byte is
sent or taken, and `hold` is untouched. The fields after `err` are the model's own (log entries 3, 6, 8, 10). -/
def Obligations.PingAccepted : Prop :=
  ∀ s : State, s.canAccept = true →
    exec .ping s = .next { s with
      phase := .hdr, hidx := 0, nib := false, kind := 0, pageNo := s.inputNow.cmdPageNo, remaining := 0, csum := 0x00,
      err := s.err && !s.inputNow.errClr,
      inputs := s.inputs.tail, dinOffer := if s.inputNow.dinValid then some s.inputNow.dinData else none, taken := [],
      draws := s.draws + 1 }

/-- R105 in the accept cycle (R150): Write, for every length that the port can carry, 0 among them. -/
def Obligations.WriteAccepted : Prop :=
  ∀ (s : State) p d, s.canAccept = true → d.length < 2 ^ s.lenW →
    exec (.write p d) s = .next { s with
      phase := .hdr, hidx := 0, nib := false, kind := 1, pageNo := p, remaining := d.length, csum := 0x00,
      err := s.err && !s.inputNow.errClr,
      inputs := s.inputs.tail, dinOffer := if s.inputNow.dinValid then some s.inputNow.dinData else none, taken := [],
      draws := s.draws + 1 }

/-- R106 in the accept cycle (R150): Read. -/
def Obligations.ReadAccepted : Prop :=
  ∀ (s : State) p, s.canAccept = true →
    exec (.read p) s = .next { s with
      phase := .hdr, hidx := 0, nib := false, kind := 2, pageNo := p, remaining := 0, csum := 0x00,
      err := s.err && !s.inputNow.errClr,
      inputs := s.inputs.tail, dinOffer := if s.inputNow.dinValid then some s.inputNow.dinData else none, taken := [],
      draws := s.draws + 1 }

/-- R107 in the accept cycle (R150): Verify. -/
def Obligations.VerifyAccepted : Prop :=
  ∀ (s : State) p, s.canAccept = true →
    exec (.verify p) s = .next { s with
      phase := .hdr, hidx := 0, nib := false, kind := 3, pageNo := p, remaining := 0, csum := 0x00,
      err := s.err && !s.inputNow.errClr,
      inputs := s.inputs.tail, dinOffer := if s.inputNow.dinValid then some s.inputNow.dinData else none, taken := [],
      draws := s.draws + 1 }

/-- R108 in the accept cycle (R150): Quit, which stops nothing. -/
def Obligations.QuitAccepted : Prop :=
  ∀ s : State, s.canAccept = true →
    exec .quit s = .next { s with
      phase := .hdr, hidx := 0, nib := false, kind := 4, pageNo := s.inputNow.cmdPageNo, remaining := 0, csum := 0x00,
      err := s.err && !s.inputNow.errClr,
      inputs := s.inputs.tail, dinOffer := if s.inputNow.dinValid then some s.inputNow.dinData else none, taken := [],
      draws := s.draws + 1 }

/-- R104 to R108 whole: from every idle state of the machine each command completes its accept, and then, however the host
stalls it, the bytes that leave the block up to the end of the frame are exactly the command's frame. For a Write the host
delivers the command's own `page_data` (R233); the other commands take no byte. -/
def Obligations.CommandSendsItsFrame : Prop :=
  ∀ i s, SeqInv s → s.canAccept = true → i.wf s.lenW = true →
    ∃ u, exec i s = .next u ∧ u.phase = .hdr ∧ s.sends = [] ∧
      ∀ m v t, FrameEnds u m v t → (∀ p d, i = .write p d → collect State.takes (m + 1) u = d) →
        collect State.sends (m + 1) u = outBytes (frame i) ∧ collect State.takes (m + 1) u = dinBytes i ∧ t.phase = .idle

/-- At full rate every command ends: a host that lets every cycle make progress and delivers a Write's bytes gets the whole
frame 2n + 7 cycles after the accept cycle, one byte a cycle (R161, R245). -/
def Obligations.CommandCompletesAtFullRate : Prop :=
  ∀ i s, SeqInv s → s.canAccept = true → i.wf s.lenW = true →
    ∃ u, exec i s = .next u ∧
      ((∀ k x, k < 2 * payloadLen i + 7 → runCycles k u = .next x → x.hostReady = true) →
        ∃ t, runCycles (2 * payloadLen i + 7) u = .next t ∧ t.phase = .idle ∧
          (collect State.sends (2 * payloadLen i + 7) u).length = 2 * payloadLen i + 7 ∧
          (collect State.takes (2 * payloadLen i + 7) u).length = (dinBytes i).length)

/-- A command offered while a frame is in progress waits untaken: the cycle is the one without it (R140, R238). -/
def Obligations.CommandWaitsWhileBusy : Prop :=
  ∀ i (s : State), s.phase ≠ .idle → exec i s = cycle none s

/-- R8: the longest Write that the port can carry is accepted, and a longer one cannot be presented (log entry 16). -/
def Obligations.WriteLengthBound : Prop :=
  ∀ (s : State) p d, s.canAccept = true →
    ((∃ t, exec (.write p d) s = .next t) ↔ d.length ≤ 2 ^ s.lenW - 1) ∧
    (2 ^ s.lenW - 1 < d.length → exec (.write p d) s = .refused .cmdLenNotPresentable)

/-- R72: no output and no later state depends on a field that the command ignores: two accepts that differ on the command port
only give states that are alike (log entry 8 for the model's records). -/
def Obligations.IgnoredFieldsDoNotMatter : Prop :=
  ∀ i (s : State) (a b : Inputs) t, sameButCommand a b → exec i (s.withPorts a) = .next t →
    ∃ t', exec i (s.withPorts b) = .next t' ∧ Alike t t' ∧ t'.sent = t.sent ∧ t'.err = t.err

/-! ### Outputs -/

/-- R140: `cmd_ready`, and a frame in progress is never overlaid: no command is latched and no frame begins while it is 0. -/
def Obligations.CommandReady : Prop :=
  (∀ s : State, s.outputs.cmdReady = true ↔ s.inputNow.rst = false ∧ s.phase = .idle) ∧
  (∀ s t : State, s.outputs.cmdReady = false → s.inputNow.rst = false → step s = .next t →
    t.kind = s.kind ∧ t.pageNo = s.pageNo ∧ (t.phase = .hdr → s.phase = .hdr) ∧ s.fireCmd = false)

/-- R141 and R144: the byte on offer in every cycle with `dout_valid = 1`. -/
def Obligations.OutputData : Prop :=
  ∀ s : State, s.outputs.doutValid = true →
    (s.phase = .hdr → [0xF0, 0x00, 0x70, 0x01][s.hidx.toNat]? = some s.outputs.doutData) ∧
    (s.phase = .opc → s.nib = false → s.outputs.doutData = (0x10 + s.kind.setWidth 8) >>> 4) ∧
    (s.phase = .pno → s.nib = false → s.outputs.doutData = s.pageNo >>> 4) ∧
    (s.phase = .data → s.nib = false → s.outputs.doutData = s.inputNow.dinData >>> 4) ∧
    (s.phase = .csum → s.nib = false → s.outputs.doutData = s.csum >>> 4) ∧
    (s.phase = .opc ∨ s.phase = .pno ∨ s.phase = .data ∨ s.phase = .csum → s.nib = true →
      s.outputs.doutData = s.hold &&& 0x0F) ∧
    (s.phase = .ftr → s.outputs.doutData = 0xF7)

/-- R142: `din_ready`, and a `page_data` byte is taken only at the transfer of its own high nibble. -/
def Obligations.InputReady : Prop :=
  (∀ s : State, s.outputs.dinReady = true ↔
    s.inputNow.rst = false ∧ s.phase = .data ∧ s.nib = false ∧ s.inputNow.doutReady = true) ∧
  (∀ s : State, s.fireIn = true → s.fireOut = true ∧ s.outputs.doutData = s.inputNow.dinData >>> 4)

/-- R143: `dout_valid`. -/
def Obligations.OutputValid : Prop :=
  ∀ s : State, s.phase ≠ .unreachable →
    (s.outputs.doutValid = true ↔
      s.inputNow.rst = false ∧ s.phase ≠ .idle ∧ (s.phase = .data → s.nib = true ∨ s.inputNow.dinValid = true))

/-- R145 and R235: `dout_last` is 1 exactly while the footer 0xF7 is offered, which is exactly while the byte on offer is
0xF7. -/
def Obligations.OutputLast : Prop :=
  ∀ s : State,
    (s.outputs.doutLast = true ↔ s.inputNow.rst = false ∧ s.phase = .ftr) ∧
    (s.outputs.doutLast = true ↔ s.outputs.doutValid = true ∧ s.outputs.doutData = 0xF7)

/-- R146: the paths from input to output within a cycle. -/
def Obligations.CombinationalPaths : Prop :=
  (∀ (s : State) (a b : Inputs), a.rst = b.rst → ¬ (s.phase = .data ∧ s.nib = false) →
    (s.withPorts a).outputs = (s.withPorts b).outputs) ∧
  (∀ (s : State) (a b : Inputs), a.rst = b.rst → a.dinValid = b.dinValid → a.dinData = b.dinData → a.doutReady = b.doutReady →
    (s.withPorts a).outputs = (s.withPorts b).outputs) ∧
  (∀ s : State, s.phase = .data → s.nib = false → s.inputNow.rst = false →
    s.outputs.doutValid = s.inputNow.dinValid ∧ s.outputs.dinReady = s.inputNow.doutReady ∧
    (s.inputNow.dinValid = true → s.outputs.doutData = (s.inputNow.dinData.extractLsb' 4 4).setWidth 8))

/-- R147: an offered byte is neither withdrawn nor changed before its transfer. -/
def Obligations.OfferIsStable : Prop :=
  ∀ s t : State, s.outputs.doutValid = true → s.inputNow.doutReady = false → step s = .next t → t.inputNow.rst = false →
    (s.phase = .data → s.nib = false →
      t.inputNow.dinValid = s.inputNow.dinValid ∧ t.inputNow.dinData = s.inputNow.dinData) →
    sameRegisters s t ∧ t.outputs.doutValid = true ∧ t.outputs.doutData = s.outputs.doutData

/-! ### The edges of the sequencer -/

/-- R150: the accept of a legal tag, and the accept of a reserved one. The accept cycle emits nothing. -/
def Obligations.AcceptEdge : Prop :=
  (∀ s : State, s.fireCmd = true → s.outputs.doutValid = false) ∧
  (∀ s : State, s.phase = .idle → s.fireCmd = true → s.dinStable = true → s.inputNow.cmdKind.toNat ≤ 4 →
    (s.inputNow.cmdKind = 1 → s.inputNow.cmdLen < 2 ^ s.lenW) →
    ∃ t, step s = .next t ∧ t.kind = s.inputNow.cmdKind ∧ t.pageNo = s.inputNow.cmdPageNo ∧
      t.remaining = (if s.inputNow.cmdKind = 1 then s.inputNow.cmdLen else 0) ∧
      t.csum = 0x00 ∧ t.hidx = 0 ∧ t.nib = false ∧ t.phase = .hdr ∧ t.hold = s.hold ∧ s.sends = []) ∧
  (∀ s : State, s.phase = .idle → s.fireCmd = true → s.dinStable = true → 4 < s.inputNow.cmdKind.toNat →
    ∃ t, step s = .next t ∧ sameRegisters s t ∧ t.phase = .idle ∧ t.err = true ∧ s.sends = [])

/-- R151: a header transfer, and the four transfers that emit the header in order. -/
def Obligations.HeaderEdge : Prop :=
  (∀ s t : State, s.phase = .hdr → s.fireOut = true → step s = .next t →
    (s.hidx = 3 → t.hidx = 0 ∧ t.phase = .opc) ∧
    (s.hidx ≠ 3 → t.hidx.toNat = s.hidx.toNat + 1 ∧ t.phase = .hdr) ∧
    t.nib = s.nib ∧ t.kind = s.kind ∧ t.pageNo = s.pageNo ∧ t.remaining = s.remaining ∧ t.hold = s.hold ∧ t.csum = s.csum) ∧
  (∀ s : State, s.phase = .hdr → s.hidx = 0 →
    (∀ k x, k < 4 → runCycles k s = .next x → x.hostReady = true) →
    ∃ t, runCycles 4 s = .next t ∧ t.phase = .opc ∧ t.hidx = 0 ∧
      collect State.sends 4 s = [⟨0xF0, false⟩, ⟨0x00, false⟩, ⟨0x70, false⟩, ⟨0x01, false⟩])

/-- R152: a high-nibble transfer. In `DATA` it is an input transfer as well, and `remaining - 1` is modulo `2^LEN_W` (R12); in
`CSUM` the accumulator is not updated. -/
def Obligations.HighNibbleEdge : Prop :=
  ∀ s t : State, (s.phase = .opc ∨ s.phase = .pno ∨ s.phase = .data ∨ s.phase = .csum) → s.nib = false → s.fireOut = true →
    step s = .next t →
    t.hold = s.cur ∧ t.nib = true ∧
    t.csum = (if s.phase = .csum then s.csum else s.csum ^^^ s.cur) ∧
    (s.phase = .data → s.remaining < 2 ^ s.lenW →
      t.remaining = if s.remaining = 0 then 2 ^ s.lenW - 1 else s.remaining - 1) ∧
    (s.phase ≠ .data → t.remaining = s.remaining) ∧
    t.phase = s.phase ∧ t.hidx = s.hidx ∧ t.kind = s.kind ∧ t.pageNo = s.pageNo ∧
    s.fireIn = decide (s.phase = .data) ∧ s.sends = [⟨s.cur >>> 4, false⟩]

/-- R153: a low-nibble transfer with the phase successor, and that `hold` is the byte whose high nibble came before it. -/
def Obligations.LowNibbleEdge : Prop :=
  (∀ s t : State, (s.phase = .opc ∨ s.phase = .pno ∨ s.phase = .data ∨ s.phase = .csum) → s.nib = true → s.fireOut = true →
    step s = .next t →
    t.nib = false ∧
    (s.phase = .opc → t.phase = if s.kind = 1 ∨ s.kind = 2 ∨ s.kind = 3 then .pno else .csum) ∧
    (s.phase = .pno → t.phase = if s.kind = 1 ∧ s.remaining ≠ 0 then .data else .csum) ∧
    (s.phase = .data → t.phase = if s.remaining ≠ 0 then .data else .csum) ∧
    (s.phase = .csum → t.phase = .ftr) ∧
    t.hidx = s.hidx ∧ t.kind = s.kind ∧ t.pageNo = s.pageNo ∧ t.remaining = s.remaining ∧ t.hold = s.hold ∧
    t.csum = s.csum ∧ s.fireIn = false ∧ s.sends = [⟨s.hold &&& 0x0F, false⟩]) ∧
  (∀ (s t : State) n u, (s.phase = .opc ∨ s.phase = .pno ∨ s.phase = .data ∨ s.phase = .csum) → s.nib = false → s.fireOut = true →
    step s = .next t → along (fun x => x.notReset && !x.fireOut) n t = true → runCycles n t = .next u → u.fireOut = true →
    u.phase = s.phase ∧ u.nib = true ∧ u.hold = s.cur)

/-- R154: the footer transfer. In the next cycle a command can be accepted and `busy` is 0. -/
def Obligations.FooterEdge : Prop :=
  ∀ s t : State, s.phase = .ftr → s.fireOut = true → step s = .next t →
    t.phase = .idle ∧ t.hidx = s.hidx ∧ t.nib = s.nib ∧ t.kind = s.kind ∧ t.pageNo = s.pageNo ∧
    t.remaining = s.remaining ∧ t.hold = s.hold ∧ t.csum = s.csum ∧
    s.sends = [⟨0xF7, true⟩] ∧ t.outputs.busy = false ∧ (t.inputNow.rst = false → t.outputs.cmdReady = true)

/-- R155: a cycle with no accept and no output transfer keeps the registers, and `err` follows R203. -/
def Obligations.Stall : Prop :=
  ∀ s t : State, s.inputNow.rst = false → s.fireCmd = false → s.fireOut = false → step s = .next t →
    sameRegisters s t ∧ t.err = (if s.inputNow.errClr then false else s.err) ∧ s.sends = [] ∧ s.takes = []

/-- R30: each transfer moves exactly one command, one input byte, one output byte; nothing else moves data. The registers
change only where a rule of R150 to R154 writes them, and `LEN_W` never. `sent` and `taken` are the model's records of the
transfers (log entry 8). -/
def Obligations.OnlyTransfersMoveData : Prop :=
  ∀ s t : State, s.inputNow.rst = false → step s = .next t →
    t.sent = (if s.fireOut then s.sent ++ [⟨s.outputs.doutData, s.outputs.doutLast⟩] else s.sent) ∧
    (s.fireCmd = false → t.taken = if s.fireIn then s.taken ++ [s.inputNow.dinData] else s.taken) ∧
    (s.fireCmd = true ∧ s.inputNow.cmdKind.toNat ≤ 4 → t.taken = []) ∧
    (t.kind ≠ s.kind ∨ t.pageNo ≠ s.pageNo → s.fireCmd = true ∧ s.inputNow.cmdKind.toNat ≤ 4) ∧
    (t.hold ≠ s.hold → s.fireOut = true ∧ s.nib = false ∧
      (s.phase = .opc ∨ s.phase = .pno ∨ s.phase = .data ∨ s.phase = .csum)) ∧
    (t.csum ≠ s.csum → s.fireCmd = true ∨
      s.fireOut = true ∧ s.nib = false ∧ (s.phase = .opc ∨ s.phase = .pno ∨ s.phase = .data)) ∧
    (t.remaining ≠ s.remaining → s.fireCmd = true ∨ s.fireIn = true) ∧
    t.lenW = s.lenW

/-- R62: the command port is sampled only at the accept, which latches it, and `din_data` only at an input transfer, which
keeps it in `hold`. -/
def Obligations.InputsSampledAtTransfers : Prop :=
  (∀ (s : State) (a b : Inputs), sameButCommand a b → (s.withPorts a).fireCmd = false → (s.withPorts b).fireCmd = false →
    step (s.withPorts a) = step (s.withPorts b)) ∧
  (∀ (s : State) (a : Inputs) x t t', (s.withPorts a).fireIn = false → step (s.withPorts a) = .next t →
    step (s.withPorts { a with dinData := x }) = .next t' →
    sameRegisters t t' ∧ t'.err = t.err ∧
    (s.withPorts { a with dinData := x }).sends = (s.withPorts a).sends ∧ (s.withPorts { a with dinData := x }).takes = []) ∧
  (∀ s t : State, s.fireCmd = true → s.inputNow.cmdKind.toNat ≤ 4 → step s = .next t →
    t.kind = s.inputNow.cmdKind ∧ t.pageNo = s.inputNow.cmdPageNo ∧
    (s.inputNow.cmdKind = 1 → t.remaining = s.inputNow.cmdLen)) ∧
  (∀ s t : State, s.fireIn = true → step s = .next t → t.hold = s.inputNow.dinData)

/-! ### The exception and the flag -/

/-- R203: the update of `err` at every edge, with its priorities, and `err_clr` touches nothing else. -/
def Obligations.ErrUpdate : Prop :=
  (∀ s t : State, step s = .next t →
    t.err = (if s.inputNow.rst then false
      else if s.fireCmd && decide (s.phase = .idle) && decide (5 ≤ s.inputNow.cmdKind.toNat) then true
      else if s.inputNow.errClr then false
      else s.err)) ∧
  (∀ (s : State) (a : Inputs) c t t', step (s.withPorts a) = .next t → step (s.withPorts { a with errClr := c }) = .next t' →
    { t' with err := t.err } = t ∧ (a.rst = true → t' = t))

/-- R201: IllegalCommand. Its cause, its effect, and that nothing else raises it. -/
def Obligations.IllegalCommand : Prop :=
  (∀ s : State, s.fireCmd = true → s.phase = .idle → 5 ≤ s.inputNow.cmdKind.toNat → s.dinStable = true →
    ∃ t, step s = .next t ∧ sameRegisters s t ∧ t.err = true ∧ t.outputs.errIllegal = true ∧
      t.excCode = 1 ∧ s.outputs.doutValid = false ∧ s.sends = [] ∧ s.takes = []) ∧
  (∀ s t : State, step s = .next t → s.err = false → t.err = true →
    s.fireCmd = true ∧ s.phase = .idle ∧ 5 ≤ s.inputNow.cmdKind.toNat) ∧
  (∀ s : State, s.err = false → s.excCode = 0)

/-- R35 and R200: what writes the flag; no command does; and nothing in the block reads it. -/
def Obligations.ErrIsOnlyAFlag : Prop :=
  (∀ s t : State, step s = .next t → t.err ≠ s.err →
    (t.err = true ∧ s.fireCmd = true ∧ 5 ≤ s.inputNow.cmdKind.toNat) ∨
    (t.err = false ∧ (s.inputNow.errClr = true ∨ s.inputNow.rst = true))) ∧
  (∀ i (s t : State), exec i s = .next t → s.inputNow.rst = false → s.inputNow.errClr = false → t.err = s.err) ∧
  (∀ s t e, step s = .next t →
    ∃ t', step { s with err := e } = .next t' ∧ { t' with err := t.err } = t)

/-- R236, R246: `busy` and `err_illegal` show an accept in the cycle after it, and the first header byte is offered there. -/
def Obligations.StatusAfterAccept : Prop :=
  ∀ s t : State, s.fireCmd = true → step s = .next t →
    s.outputs.busy = false ∧
    (s.inputNow.cmdKind.toNat ≤ 4 → t.outputs.busy = true ∧
      (t.inputNow.rst = false →
        t.outputs.doutValid = true ∧ t.outputs.doutData = 0xF0 ∧ t.outputs.doutLast = false)) ∧
    (5 ≤ s.inputNow.cmdKind.toNat → t.outputs.busy = false ∧ t.outputs.errIllegal = true)

/-! ### Reset, and what the model stops on -/

/-- Reset from every state, whatever is on the other ports (R220). The next state has the premise that the host keeps R231. The
clause that outside `IDLE` no duty is left to break is the model's reading of R223 (log entry 10) and not in R220. What R31
leaves unspecified is not said here. -/
def Obligations.ResetEdge : Prop :=
  ∀ s : State, s.inputNow.rst = true →
    s.outputs.cmdReady = false ∧ s.outputs.dinReady = false ∧ s.outputs.doutValid = false ∧ s.outputs.doutLast = false ∧
    s.fireCmd = false ∧ s.fireIn = false ∧ s.fireOut = false ∧
    (∀ i, exec i s = step s) ∧
    (s.phase ≠ .idle → s.dinStable = true) ∧
    (s.dinStable = true →
      ∃ t, step s = .next t ∧ t.phase = .idle ∧ t.hidx = 0 ∧ t.nib = false ∧ t.err = false ∧ t.lenW = s.lenW)

/-- R222: one edge with `rst = 1` resets the block, holding it longer transfers nothing, and the first cycle with `rst = 0`
shows the reset outputs. -/
def Obligations.FirstCycleAfterReset : Prop :=
  ∀ n s t, along (fun x => x.inputNow.rst) (n + 1) s = true → runCycles (n + 1) s = .next t →
    t.phase = .idle ∧ t.hidx = 0 ∧ t.nib = false ∧ t.err = false ∧
    collect State.sends (n + 1) s = [] ∧ collect State.takes (n + 1) s = [] ∧
    (t.inputNow.rst = false →
      t.outputs.cmdReady = true ∧ t.outputs.busy = false ∧ t.outputs.errIllegal = false ∧ t.outputs.doutValid = false)

/-- `State.reset` meets the invariants; its unspecified registers are 0 there by the model's choice (log entry 2). -/
def Obligations.ResetStateMeetsInv : Prop := SeqInv State.reset

/-- R231, start, keeping, end and breach of the duty. A byte offered with `rst = 0` and not taken is owed from then on; a reset in
`IDLE` keeps the duty; its own transfer ends it, and a reset in the middle of a frame does (R223; that reading is the model's,
log entry 10). A cycle that breaks the duty has no move, with `rst = 1` in `IDLE` as with `rst = 0`. -/
def Obligations.DinOfferMustStay : Prop :=
  (∀ s t : State, step s = .next t → s.inputNow.rst = false → s.inputNow.dinValid = true → s.fireIn = false →
    t.dinOffer = some s.inputNow.dinData) ∧
  (∀ s t : State, step s = .next t → s.inputNow.rst = true → s.phase = .idle → t.dinOffer = s.dinOffer) ∧
  (∀ s t : State, step s = .next t →
    s.fireIn = true ∨ s.inputNow.dinValid = false ∨ (s.inputNow.rst = true ∧ s.phase ≠ .idle) → t.dinOffer = none) ∧
  (∀ (s : State) b, s.dinOffer = some b → ¬ (s.inputNow.dinValid = true ∧ s.inputNow.dinData = b) →
    (s.inputNow.rst = false ∧ s.phase ≠ .unreachable) ∨ (s.inputNow.rst = true ∧ s.phase = .idle) →
    step s = .refused .dinUnstable ∧ ∀ i, exec i s = .refused .dinUnstable) ∧
  (∀ s : State, s.dinOffer = none ∨ (s.inputNow.rst = true ∧ s.phase ≠ .idle) → s.dinStable = true)

/-- The model stops nowhere else: where the `din` duty is kept, a step answers a next state with `rst = 1`, and with `rst = 0` in
every phase of the machine with a length the port can carry. -/
def Obligations.NoOtherStop : Prop :=
  ∀ s : State, s.dinStable = true →
    (s.inputNow.rst = true ∨
      s.phase ≠ .unreachable ∧ (s.inputNow.cmdKind = 1 → s.inputNow.cmdLen < 2 ^ s.lenW)) →
    ∃ t, step s = .next t

/-! ### Invariants and runs -/

/-- R157: the invariants hold after every reset edge and every step keeps them; a state outside them with `phase = 7` faults. -/
def Obligations.InvariantsKept : Prop :=
  (∀ s t : State, 1 ≤ s.lenW → s.inputNow.rst = true → step s = .next t → SeqInv t) ∧
  (∀ s t : State, SeqInv s → step s = .next t → SeqInv t) ∧
  (∀ s : State, s.phase = .unreachable → s.inputNow.rst = false →
    step s = .fault .phaseUnreachable ∧ ∀ i, exec i s = .fault .phaseUnreachable)

/-- R158: `remaining - 1` never wraps; `DATA` is entered only while `remaining` is not 0; and a frame takes exactly as many
`page_data` bytes as its command has. -/
def Obligations.CounterSafety : Prop :=
  (∀ s t : State, SeqInv s → s.fireIn = true → step s = .next t → t.remaining + 1 = s.remaining) ∧
  (∀ s t : State, step s = .next t → t.phase = .data → (s.phase ≠ .data ∨ s.nib = true ∧ s.fireOut = true) → s.remaining ≠ 0) ∧
  (∀ s u m v t, SeqInv s → s.fireCmd = true → s.inputNow.cmdKind.toNat ≤ 4 → step s = .next u → FrameEnds u m v t →
    u.remaining = (if s.inputNow.cmdKind = 1 then s.inputNow.cmdLen else 0) ∧
    (collect State.takes (m + 1) u).length = if s.inputNow.cmdKind = 1 then s.inputNow.cmdLen else 0)

/-- R156: the phases of the output transfers from an accept to the end of its frame, whatever the stalls between them. -/
def Obligations.PhaseSequence : Prop :=
  ∀ s u m v t, SeqInv s → s.fireCmd = true → s.inputNow.cmdKind.toNat ≤ 4 → step s = .next u → FrameEnds u m v t →
    collect State.sendPhase (m + 1) u =
      List.replicate 4 .hdr ++ List.replicate 2 .opc ++
        (if s.inputNow.cmdKind = 0 ∨ s.inputNow.cmdKind = 4 then [] else List.replicate 2 .pno) ++
        (if s.inputNow.cmdKind = 1 then List.replicate (2 * s.inputNow.cmdLen) .data else []) ++
        List.replicate 2 .csum ++ [.ftr] ∧
    (collect State.sendPhase (m + 1) u).length =
      2 * (1 + (if s.inputNow.cmdKind = 0 ∨ s.inputNow.cmdKind = 4 then 0 else 1) +
        (if s.inputNow.cmdKind = 1 then s.inputNow.cmdLen else 0)) + 7

/-- R160: the bytes that leave the block between an accept and the end of its frame are exactly the frame of the command that
the port values at the accept and the `page_data` bytes taken since make up. -/
def Obligations.FrameEquivalence : Prop :=
  ∀ s u m v t, SeqInv s → s.phase = .idle → s.fireCmd = true → s.inputNow.cmdKind.toNat ≤ 4 → step s = .next u →
    FrameEnds u m v t →
    ∃ c, decodePort s.lenW s.portCmd (collect State.takes (m + 1) u) = .ok c ∧
      collect State.sends (m + 1) u = outBytes (frame c) ∧
      (frame c).length = 2 * payloadLen c + 7 ∧
      (collect State.takes (m + 1) u).length = (dinBytes c).length ∧
      t.phase = .idle

/-- R59 and R206: between two idle states without a reset the output is a whole number of frames, one for each accepted legal
command and in their order, with the `page_data` bytes in the order they were taken. -/
def Obligations.OutputIsWholeFrames : Prop :=
  ∀ n s t, SeqInv s → s.phase = .idle → along State.notReset n s = true → runCycles n s = .next t → t.phase = .idle →
    ∃ cs : List Instr,
      List.Forall₂ (fun c pc => portFits c pc = true) cs (collect State.accepts n s) ∧
      (∀ c ∈ cs, c.wf s.lenW = true) ∧
      cs.flatMap dinBytes = collect State.takes n s ∧
      collect State.sends n s = cs.flatMap (fun c => outBytes (frame c))

/-- R161: at full rate every cycle of a frame transfers a byte and the frame ends 2n + 7 cycles after the accept; a host that
withholds its part keeps the block waiting in its present state, for as long as it likes. -/
def Obligations.Progress : Prop :=
  (∀ s u n, SeqInv s → s.fireCmd = true → s.inputNow.cmdKind.toNat ≤ 4 → step s = .next u →
    n = 1 + (if s.inputNow.cmdKind = 0 ∨ s.inputNow.cmdKind = 4 then 0 else 1) +
      (if s.inputNow.cmdKind = 1 then s.inputNow.cmdLen else 0) →
    (∀ k x, k < 2 * n + 7 → runCycles k u = .next x → x.hostReady = true) →
    (∃ t, runCycles (2 * n + 7) u = .next t ∧ t.phase = .idle) ∧
    (∀ k, k < 2 * n + 7 → ∃ x, runCycles k u = .next x ∧ x.fireOut = true ∧ x.phase ≠ .idle)) ∧
  (∀ n (s : State), s.phase ≠ .idle → s.phase ≠ .unreachable →
    (∀ k x, k < n → runCycles k s = .next x → x.hostWithholds = true) →
    ∃ t, runCycles n s = .next t ∧ sameRegisters s t ∧ collect State.sends n s = [] ∧ collect State.takes n s = [])

/-- R31, R33, R159: registers that are unspecified after reset and fields that a command ignores reach no output that the host may
read, and `err` reaches none but `err_illegal`: two alike states under the same schedule stay alike, show the same ports, and send
the same bytes; and if they have the same `err`, they have the same `err` and `err_illegal` after every number of cycles. -/
def Obligations.NoOutputDependsOnUnspecified : Prop :=
  ∀ n s t s', SeqInv s → Alike s t → runCycles n s = .next s' →
    ∃ t', runCycles n t = .next t' ∧ Alike s' t' ∧ samePorts s' t' ∧
      collect State.sends n t = collect State.sends n s ∧
      (t.err = s.err → t'.err = s'.err ∧ t'.outputs.errIllegal = s'.outputs.errIllegal)
end

