-- ==== Sys2Proof/Laws/Bytes.lean ====
section
/-! SUPPORT. The byte arithmetic of the pipeline: opcodes and tags (R71), header bytes (R20), nibbles (R122) and the XOR fold
(R120). -/

namespace Sys2Proof.Machine

/-- R71: the sum never carries, so the opcode of a command is 0x10 plus its tag. -/
@[simp] theorem opcodeOfTag_tag (i : Instr) : opcodeOfTag (tag i) = opcode i := by
  cases i <;> rfl

@[simp] theorem opcodeOfTag_zero : opcodeOfTag 0#3 = 0x10#8 := rfl
@[simp] theorem opcodeOfTag_one : opcodeOfTag 1#3 = 0x11#8 := rfl
@[simp] theorem opcodeOfTag_two : opcodeOfTag 2#3 = 0x12#8 := rfl
@[simp] theorem opcodeOfTag_three : opcodeOfTag 3#3 = 0x13#8 := rfl
@[simp] theorem opcodeOfTag_four : opcodeOfTag 4#3 = 0x14#8 := rfl

@[simp] theorem headerByte_zero : headerByte 0#2 = 0xF0#8 := rfl
@[simp] theorem headerByte_one : headerByte 1#2 = 0x00#8 := rfl
@[simp] theorem headerByte_two : headerByte 2#2 = 0x70#8 := rfl
@[simp] theorem headerByte_three : headerByte 3#2 = 0x01#8 := rfl

/-- R122: a high nibble is a 4-bit value. -/
theorem hiNibble_lt (b : Byte) : (hiNibble b).toNat < 16 := by
  simp only [hiNibble, BitVec.toNat_ushiftRight, Nat.shiftRight_eq_div_pow]
  have := b.isLt
  omega

/-- R122: a low nibble is a 4-bit value. -/
theorem loNibble_lt (b : Byte) : (loNibble b).toNat < 16 := by
  simp only [loNibble, BitVec.toNat_and]
  exact Nat.lt_of_le_of_lt Nat.and_le_right (by decide)

@[simp] theorem checksum_nil : checksum [] = 0x00 := rfl

/-- R120: one more payload byte is one more XOR. -/
theorem checksum_concat (p : List Byte) (b : Byte) : checksum (p ++ [b]) = checksum p ^^^ b := by
  simp [checksum, List.foldl_append]

@[simp] theorem checksum_singleton (b : Byte) : checksum [b] = b := by
  simp [checksum]

@[simp] theorem nibbleStream_length (p : List Byte) : (nibbleStream p).length = 2 * (p.length + 1) := by
  simp only [nibbleStream, checksummed, List.length_flatMap, nibbles]
  simp
  omega

end Sys2Proof.Machine
end

