-- ==== Sys2Proof/Laws/State.lean ====
section
/-! SUPPORT. One lemma per field per update of the machine's state, each true by unfolding the update once. -/

namespace Sys2Proof.Machine

@[simp] theorem takeIllegalCommand_phase (s : State) :
    (takeIllegalCommand s).phase = s.phase := rfl

@[simp] theorem takeIllegalCommand_hidx (s : State) :
    (takeIllegalCommand s).hidx = s.hidx := rfl

@[simp] theorem takeIllegalCommand_nib (s : State) :
    (takeIllegalCommand s).nib = s.nib := rfl

@[simp] theorem takeIllegalCommand_kind (s : State) :
    (takeIllegalCommand s).kind = s.kind := rfl

@[simp] theorem takeIllegalCommand_pageNo (s : State) :
    (takeIllegalCommand s).pageNo = s.pageNo := rfl

@[simp] theorem takeIllegalCommand_remaining (s : State) :
    (takeIllegalCommand s).remaining = s.remaining := rfl

@[simp] theorem takeIllegalCommand_hold (s : State) :
    (takeIllegalCommand s).hold = s.hold := rfl

@[simp] theorem takeIllegalCommand_csum (s : State) :
    (takeIllegalCommand s).csum = s.csum := rfl

@[simp] theorem takeIllegalCommand_err (s : State) :
    (takeIllegalCommand s).err = errNext false true s.inputNow.errClr s.err := rfl

@[simp] theorem takeIllegalCommand_lenW (s : State) :
    (takeIllegalCommand s).lenW = s.lenW := rfl

@[simp] theorem takeIllegalCommand_inputs (s : State) :
    (takeIllegalCommand s).inputs = s.inputs := rfl

@[simp] theorem takeIllegalCommand_dinOffer (s : State) :
    (takeIllegalCommand s).dinOffer = s.dinOffer := rfl

@[simp] theorem takeIllegalCommand_sent (s : State) :
    (takeIllegalCommand s).sent = s.sent := rfl

@[simp] theorem takeIllegalCommand_taken (s : State) :
    (takeIllegalCommand s).taken = s.taken := rfl

@[simp] theorem takeIllegalCommand_draws (s : State) :
    (takeIllegalCommand s).draws = s.draws := rfl

@[simp] theorem clearErrByHost_phase (s : State) :
    (clearErrByHost s).phase = s.phase := rfl

@[simp] theorem clearErrByHost_hidx (s : State) :
    (clearErrByHost s).hidx = s.hidx := rfl

@[simp] theorem clearErrByHost_nib (s : State) :
    (clearErrByHost s).nib = s.nib := rfl

@[simp] theorem clearErrByHost_kind (s : State) :
    (clearErrByHost s).kind = s.kind := rfl

@[simp] theorem clearErrByHost_pageNo (s : State) :
    (clearErrByHost s).pageNo = s.pageNo := rfl

@[simp] theorem clearErrByHost_remaining (s : State) :
    (clearErrByHost s).remaining = s.remaining := rfl

@[simp] theorem clearErrByHost_hold (s : State) :
    (clearErrByHost s).hold = s.hold := rfl

@[simp] theorem clearErrByHost_csum (s : State) :
    (clearErrByHost s).csum = s.csum := rfl

@[simp] theorem clearErrByHost_err (s : State) :
    (clearErrByHost s).err = errNext false false s.inputNow.errClr s.err := rfl

@[simp] theorem clearErrByHost_lenW (s : State) :
    (clearErrByHost s).lenW = s.lenW := rfl

@[simp] theorem clearErrByHost_inputs (s : State) :
    (clearErrByHost s).inputs = s.inputs := rfl

@[simp] theorem clearErrByHost_dinOffer (s : State) :
    (clearErrByHost s).dinOffer = s.dinOffer := rfl

@[simp] theorem clearErrByHost_sent (s : State) :
    (clearErrByHost s).sent = s.sent := rfl

@[simp] theorem clearErrByHost_taken (s : State) :
    (clearErrByHost s).taken = s.taken := rfl

@[simp] theorem clearErrByHost_draws (s : State) :
    (clearErrByHost s).draws = s.draws := rfl

@[simp] theorem latchCmd_phase (pc : PortCmd) (s : State) :
    (latchCmd pc s).phase = .hdr := rfl

@[simp] theorem latchCmd_hidx (pc : PortCmd) (s : State) :
    (latchCmd pc s).hidx = 0 := rfl

@[simp] theorem latchCmd_nib (pc : PortCmd) (s : State) :
    (latchCmd pc s).nib = false := rfl

@[simp] theorem latchCmd_kind (pc : PortCmd) (s : State) :
    (latchCmd pc s).kind = pc.kind := rfl

@[simp] theorem latchCmd_pageNo (pc : PortCmd) (s : State) :
    (latchCmd pc s).pageNo = pc.pageNo := rfl

@[simp] theorem latchCmd_remaining (pc : PortCmd) (s : State) :
    (latchCmd pc s).remaining = (if pc.kind = 1 then pc.len else 0) := rfl

@[simp] theorem latchCmd_hold (pc : PortCmd) (s : State) :
    (latchCmd pc s).hold = s.hold := rfl

@[simp] theorem latchCmd_csum (pc : PortCmd) (s : State) :
    (latchCmd pc s).csum = 0 := rfl

@[simp] theorem latchCmd_err (pc : PortCmd) (s : State) :
    (latchCmd pc s).err = s.err := rfl

@[simp] theorem latchCmd_lenW (pc : PortCmd) (s : State) :
    (latchCmd pc s).lenW = s.lenW := rfl

@[simp] theorem latchCmd_inputs (pc : PortCmd) (s : State) :
    (latchCmd pc s).inputs = s.inputs := rfl

@[simp] theorem latchCmd_dinOffer (pc : PortCmd) (s : State) :
    (latchCmd pc s).dinOffer = s.dinOffer := rfl

@[simp] theorem latchCmd_sent (pc : PortCmd) (s : State) :
    (latchCmd pc s).sent = s.sent := rfl

@[simp] theorem latchCmd_taken (pc : PortCmd) (s : State) :
    (latchCmd pc s).taken = [] := rfl

@[simp] theorem latchCmd_draws (pc : PortCmd) (s : State) :
    (latchCmd pc s).draws = s.draws := rfl

@[simp] theorem highNibbleEdge_phase (s : State) :
    (highNibbleEdge s).phase = s.phase := rfl

@[simp] theorem highNibbleEdge_hidx (s : State) :
    (highNibbleEdge s).hidx = s.hidx := rfl

@[simp] theorem highNibbleEdge_nib (s : State) :
    (highNibbleEdge s).nib = true := rfl

@[simp] theorem highNibbleEdge_kind (s : State) :
    (highNibbleEdge s).kind = s.kind := rfl

@[simp] theorem highNibbleEdge_pageNo (s : State) :
    (highNibbleEdge s).pageNo = s.pageNo := rfl

@[simp] theorem highNibbleEdge_remaining (s : State) :
    (highNibbleEdge s).remaining = (if s.phase = .data then decLen s.lenW s.remaining else s.remaining) := rfl

@[simp] theorem highNibbleEdge_hold (s : State) :
    (highNibbleEdge s).hold = s.cur := rfl

@[simp] theorem highNibbleEdge_csum (s : State) :
    (highNibbleEdge s).csum = (if s.phase = .csum then s.csum else s.csum ^^^ s.cur) := rfl

@[simp] theorem highNibbleEdge_err (s : State) :
    (highNibbleEdge s).err = s.err := rfl

@[simp] theorem highNibbleEdge_lenW (s : State) :
    (highNibbleEdge s).lenW = s.lenW := rfl

@[simp] theorem highNibbleEdge_inputs (s : State) :
    (highNibbleEdge s).inputs = s.inputs := rfl

@[simp] theorem highNibbleEdge_dinOffer (s : State) :
    (highNibbleEdge s).dinOffer = s.dinOffer := rfl

@[simp] theorem highNibbleEdge_sent (s : State) :
    (highNibbleEdge s).sent = s.sent := rfl

@[simp] theorem highNibbleEdge_taken (s : State) :
    (highNibbleEdge s).taken = s.taken := rfl

@[simp] theorem highNibbleEdge_draws (s : State) :
    (highNibbleEdge s).draws = s.draws := rfl

@[simp] theorem lowNibbleEdge_phase (s : State) :
    (lowNibbleEdge s).phase = nextPhase s.phase s.kind s.remaining := rfl

@[simp] theorem lowNibbleEdge_hidx (s : State) :
    (lowNibbleEdge s).hidx = s.hidx := rfl

@[simp] theorem lowNibbleEdge_nib (s : State) :
    (lowNibbleEdge s).nib = false := rfl

@[simp] theorem lowNibbleEdge_kind (s : State) :
    (lowNibbleEdge s).kind = s.kind := rfl

@[simp] theorem lowNibbleEdge_pageNo (s : State) :
    (lowNibbleEdge s).pageNo = s.pageNo := rfl

@[simp] theorem lowNibbleEdge_remaining (s : State) :
    (lowNibbleEdge s).remaining = s.remaining := rfl

@[simp] theorem lowNibbleEdge_hold (s : State) :
    (lowNibbleEdge s).hold = s.hold := rfl

@[simp] theorem lowNibbleEdge_csum (s : State) :
    (lowNibbleEdge s).csum = s.csum := rfl

@[simp] theorem lowNibbleEdge_err (s : State) :
    (lowNibbleEdge s).err = s.err := rfl

@[simp] theorem lowNibbleEdge_lenW (s : State) :
    (lowNibbleEdge s).lenW = s.lenW := rfl

@[simp] theorem lowNibbleEdge_inputs (s : State) :
    (lowNibbleEdge s).inputs = s.inputs := rfl

@[simp] theorem lowNibbleEdge_dinOffer (s : State) :
    (lowNibbleEdge s).dinOffer = s.dinOffer := rfl

@[simp] theorem lowNibbleEdge_sent (s : State) :
    (lowNibbleEdge s).sent = s.sent := rfl

@[simp] theorem lowNibbleEdge_taken (s : State) :
    (lowNibbleEdge s).taken = s.taken := rfl

@[simp] theorem lowNibbleEdge_draws (s : State) :
    (lowNibbleEdge s).draws = s.draws := rfl

@[simp] theorem footerEdge_phase (s : State) :
    (footerEdge s).phase = .idle := rfl

@[simp] theorem footerEdge_hidx (s : State) :
    (footerEdge s).hidx = s.hidx := rfl

@[simp] theorem footerEdge_nib (s : State) :
    (footerEdge s).nib = s.nib := rfl

@[simp] theorem footerEdge_kind (s : State) :
    (footerEdge s).kind = s.kind := rfl

@[simp] theorem footerEdge_pageNo (s : State) :
    (footerEdge s).pageNo = s.pageNo := rfl

@[simp] theorem footerEdge_remaining (s : State) :
    (footerEdge s).remaining = s.remaining := rfl

@[simp] theorem footerEdge_hold (s : State) :
    (footerEdge s).hold = s.hold := rfl

@[simp] theorem footerEdge_csum (s : State) :
    (footerEdge s).csum = s.csum := rfl

@[simp] theorem footerEdge_err (s : State) :
    (footerEdge s).err = s.err := rfl

@[simp] theorem footerEdge_lenW (s : State) :
    (footerEdge s).lenW = s.lenW := rfl

@[simp] theorem footerEdge_inputs (s : State) :
    (footerEdge s).inputs = s.inputs := rfl

@[simp] theorem footerEdge_dinOffer (s : State) :
    (footerEdge s).dinOffer = s.dinOffer := rfl

@[simp] theorem footerEdge_sent (s : State) :
    (footerEdge s).sent = s.sent := rfl

@[simp] theorem footerEdge_taken (s : State) :
    (footerEdge s).taken = s.taken := rfl

@[simp] theorem footerEdge_draws (s : State) :
    (footerEdge s).draws = s.draws := rfl

@[simp] theorem resetRegisters_phase (s : State) :
    (resetRegisters s).phase = .idle := rfl

@[simp] theorem resetRegisters_hidx (s : State) :
    (resetRegisters s).hidx = 0 := rfl

@[simp] theorem resetRegisters_nib (s : State) :
    (resetRegisters s).nib = false := rfl

@[simp] theorem resetRegisters_kind (s : State) :
    (resetRegisters s).kind = Config.freeKind s.draws := rfl

@[simp] theorem resetRegisters_pageNo (s : State) :
    (resetRegisters s).pageNo = Config.freePageNo s.draws := rfl

@[simp] theorem resetRegisters_remaining (s : State) :
    (resetRegisters s).remaining = Config.freeRemaining s.draws % 2 ^ s.lenW := rfl

@[simp] theorem resetRegisters_hold (s : State) :
    (resetRegisters s).hold = Config.freeHold s.draws := rfl

@[simp] theorem resetRegisters_csum (s : State) :
    (resetRegisters s).csum = Config.freeCsum s.draws := rfl

@[simp] theorem resetRegisters_err (s : State) :
    (resetRegisters s).err = false := rfl

@[simp] theorem resetRegisters_lenW (s : State) :
    (resetRegisters s).lenW = s.lenW := rfl

@[simp] theorem resetRegisters_inputs (s : State) :
    (resetRegisters s).inputs = s.inputs := rfl

@[simp] theorem resetRegisters_dinOffer (s : State) :
    (resetRegisters s).dinOffer = s.dinOffer := rfl

@[simp] theorem resetRegisters_sent (s : State) :
    (resetRegisters s).sent = s.sent := rfl

@[simp] theorem resetRegisters_taken (s : State) :
    (resetRegisters s).taken = s.taken := rfl

@[simp] theorem resetRegisters_draws (s : State) :
    (resetRegisters s).draws = s.draws := rfl

@[simp] theorem endCycle_phase (s t : State) :
    (endCycle s t).phase = t.phase := rfl

@[simp] theorem endCycle_hidx (s t : State) :
    (endCycle s t).hidx = t.hidx := rfl

@[simp] theorem endCycle_nib (s t : State) :
    (endCycle s t).nib = t.nib := rfl

@[simp] theorem endCycle_kind (s t : State) :
    (endCycle s t).kind = t.kind := rfl

@[simp] theorem endCycle_pageNo (s t : State) :
    (endCycle s t).pageNo = t.pageNo := rfl

@[simp] theorem endCycle_remaining (s t : State) :
    (endCycle s t).remaining = t.remaining := rfl

@[simp] theorem endCycle_hold (s t : State) :
    (endCycle s t).hold = t.hold := rfl

@[simp] theorem endCycle_csum (s t : State) :
    (endCycle s t).csum = t.csum := rfl

@[simp] theorem endCycle_err (s t : State) :
    (endCycle s t).err = t.err := rfl

@[simp] theorem endCycle_lenW (s t : State) :
    (endCycle s t).lenW = t.lenW := rfl

@[simp] theorem endCycle_inputs (s t : State) :
    (endCycle s t).inputs = s.inputs.tail := rfl

@[simp] theorem endCycle_dinOffer (s t : State) :
    (endCycle s t).dinOffer = s.nextDinOffer := rfl

@[simp] theorem endCycle_sent (s t : State) :
    (endCycle s t).sent = (if s.fireOut then s.sent ++ [s.outByte] else s.sent) := rfl

@[simp] theorem endCycle_taken (s t : State) :
    (endCycle s t).taken = (if s.fireIn then t.taken ++ [s.inputNow.dinData] else t.taken) := rfl

@[simp] theorem endCycle_draws (s t : State) :
    (endCycle s t).draws = s.draws + 1 := rfl

@[simp] theorem headerEdge_nib (s : State) : (headerEdge s).nib = s.nib := by
  unfold headerEdge; split <;> rfl

@[simp] theorem headerEdge_kind (s : State) : (headerEdge s).kind = s.kind := by
  unfold headerEdge; split <;> rfl

@[simp] theorem headerEdge_pageNo (s : State) : (headerEdge s).pageNo = s.pageNo := by
  unfold headerEdge; split <;> rfl

@[simp] theorem headerEdge_remaining (s : State) : (headerEdge s).remaining = s.remaining := by
  unfold headerEdge; split <;> rfl

@[simp] theorem headerEdge_hold (s : State) : (headerEdge s).hold = s.hold := by
  unfold headerEdge; split <;> rfl

@[simp] theorem headerEdge_csum (s : State) : (headerEdge s).csum = s.csum := by
  unfold headerEdge; split <;> rfl

@[simp] theorem headerEdge_err (s : State) : (headerEdge s).err = s.err := by
  unfold headerEdge; split <;> rfl

@[simp] theorem headerEdge_lenW (s : State) : (headerEdge s).lenW = s.lenW := by
  unfold headerEdge; split <;> rfl

@[simp] theorem headerEdge_inputs (s : State) : (headerEdge s).inputs = s.inputs := by
  unfold headerEdge; split <;> rfl

@[simp] theorem headerEdge_dinOffer (s : State) : (headerEdge s).dinOffer = s.dinOffer := by
  unfold headerEdge; split <;> rfl

@[simp] theorem headerEdge_sent (s : State) : (headerEdge s).sent = s.sent := by
  unfold headerEdge; split <;> rfl

@[simp] theorem headerEdge_taken (s : State) : (headerEdge s).taken = s.taken := by
  unfold headerEdge; split <;> rfl

@[simp] theorem headerEdge_draws (s : State) : (headerEdge s).draws = s.draws := by
  unfold headerEdge; split <;> rfl

@[simp] theorem headerEdge_hidx (s : State) :
    (headerEdge s).hidx = if s.hidx = 3 then 0 else s.hidx + 1 := by
  unfold headerEdge; split <;> rfl

@[simp] theorem headerEdge_phase (s : State) :
    (headerEdge s).phase = if s.hidx = 3 then .opc else s.phase := by
  unfold headerEdge; split <;> rfl

end Sys2Proof.Machine
end

