-- ==== Sys2Proof/Laws/Ops.lean ====
section
/-! SUPPORT. What each shared operation of a cycle can do, said once: the outcomes of `cycle`, the registers after an edge by
phase, and that a command's meaning and a step are cycles. -/

namespace Sys2Proof.Machine

/-! ### Ports and transfers -/

theorem cmdReady_iff (s : State) : s.cmdReady = true ↔ s.inputNow.rst = false ∧ s.phase = .idle := by
  simp [State.cmdReady]

theorem fireOut_iff (s : State) :
    s.fireOut = true ↔ s.inputNow.rst = false ∧ s.offersByte = true ∧ s.inputNow.doutReady = true := by
  simp [State.fireOut, State.doutValid]; tauto

theorem fireIn_iff (s : State) :
    s.fireIn = true ↔ s.inputNow.rst = false ∧ s.phase = .data ∧ s.nib = false ∧ s.inputNow.dinValid = true ∧
      s.inputNow.doutReady = true := by
  simp [State.fireIn, State.dinReady]; tauto

theorem fireOut_of_rst {s : State} (h : s.inputNow.rst = true) : s.fireOut = false := by
  simp [State.fireOut, h]

theorem fireIn_of_rst {s : State} (h : s.inputNow.rst = true) : s.fireIn = false := by
  simp [State.fireIn, h]

theorem fireOut_of_idle {s : State} (h : s.phase = .idle) : s.fireOut = false := by
  simp [State.fireOut, State.doutValid, State.offersByte, h]

theorem fireIn_of_ne_data {s : State} (h : s.phase ≠ .data) : s.fireIn = false := by
  simp [State.fireIn, State.dinReady, h]

/-- An input transfer is an output transfer of the same cycle (R152). -/
theorem fireOut_of_fireIn {s : State} (h : s.fireIn = true) : s.fireOut = true := by
  obtain ⟨hr, hp, hn, hv, hd⟩ := (fireIn_iff s).1 h
  simp [fireOut_iff, hr, hd, State.offersByte, hp, hv]

/-! ### Edges -/

@[simp] theorem clearErrByHost_inputNow (s : State) : (clearErrByHost s).inputNow = s.inputNow := rfl
@[simp] theorem latchCmd_inputNow (pc : PortCmd) (s : State) : (latchCmd pc s).inputNow = s.inputNow := rfl
@[simp] theorem highNibbleEdge_inputNow (s : State) : (highNibbleEdge s).inputNow = s.inputNow := rfl
@[simp] theorem lowNibbleEdge_inputNow (s : State) : (lowNibbleEdge s).inputNow = s.inputNow := rfl
@[simp] theorem footerEdge_inputNow (s : State) : (footerEdge s).inputNow = s.inputNow := rfl
@[simp] theorem headerEdge_inputNow (s : State) : (headerEdge s).inputNow = s.inputNow := by
  unfold headerEdge; split <;> rfl

/-- The operand of an edge with an accept (R150, R201). -/
theorem registerEdge_accept {s : State} (h : s.cmdReady = true) (pc : PortCmd) :
    registerEdge (some pc) s = acceptCmd pc s := by
  simp [registerEdge, h]

theorem registerEdge_no_offer {s : State} (h : s.cmdReady = true) :
    registerEdge none s = clearErrByHost s := by
  simp [registerEdge, h]

/-- Outside a cycle that can accept, what is on the command port does not matter (R140, R62). -/
theorem registerEdge_busy {s : State} (h : s.cmdReady = false) (offer : Option PortCmd) :
    registerEdge offer s = clearErrByHost (if s.fireOut then transferEdge s else s) := by
  simp [registerEdge, h]

/-- R150: the accept of a legal tag. -/
theorem acceptCmd_legal {pc : PortCmd} (h : legalTag pc.kind = true) (s : State) :
    acceptCmd pc s = clearErrByHost (latchCmd pc s) := by
  simp [acceptCmd, h]

/-- R201: the accept of a reserved tag. -/
theorem acceptCmd_reserved {pc : PortCmd} (h : legalTag pc.kind = false) (s : State) :
    acceptCmd pc s = takeIllegalCommand s := by
  simp [acceptCmd, h]

theorem transferEdge_hdr {s : State} (h : s.phase = .hdr) : transferEdge s = headerEdge s := by
  simp [transferEdge, h]

theorem transferEdge_ftr {s : State} (h : s.phase = .ftr) : transferEdge s = footerEdge s := by
  simp [transferEdge, h]

/-- R152 and R153: the four phases in which nibbles are sent. -/
theorem transferEdge_nibble {s : State} (h : s.phase = .opc ∨ s.phase = .pno ∨ s.phase = .data ∨ s.phase = .csum) :
    transferEdge s = if s.nib then lowNibbleEdge s else highNibbleEdge s := by
  rcases h with h | h | h | h <;> simp [transferEdge, h, nibbleEdge]

/-- Everything an output transfer can do to the registers (R151 to R154). -/
theorem transferEdge_cases (s : State) :
    ((s.phase = .idle ∨ s.phase = .unreachable) ∧ transferEdge s = s) ∨
    (s.phase = .hdr ∧ transferEdge s = headerEdge s) ∨
    ((s.phase = .opc ∨ s.phase = .pno ∨ s.phase = .data ∨ s.phase = .csum) ∧ s.nib = false ∧
      transferEdge s = highNibbleEdge s) ∨
    ((s.phase = .opc ∨ s.phase = .pno ∨ s.phase = .data ∨ s.phase = .csum) ∧ s.nib = true ∧
      transferEdge s = lowNibbleEdge s) ∨
    (s.phase = .ftr ∧ transferEdge s = footerEdge s) := by
  cases hp : s.phase <;> cases hn : s.nib <;> simp [transferEdge, nibbleEdge, hp, hn]

/-- The model's own fields, `LEN_W`, `err` and the latched command are no business of an output transfer. -/
theorem transferEdge_keeps (s : State) :
    (transferEdge s).kind = s.kind ∧ (transferEdge s).pageNo = s.pageNo ∧ (transferEdge s).err = s.err ∧
      (transferEdge s).lenW = s.lenW ∧ (transferEdge s).taken = s.taken := by
  rcases transferEdge_cases s with ⟨-, h⟩ | ⟨-, h⟩ | ⟨-, -, h⟩ | ⟨-, -, h⟩ | ⟨-, h⟩ <;> rw [h] <;> simp

@[simp] theorem transferEdge_kind (s : State) : (transferEdge s).kind = s.kind := (transferEdge_keeps s).1
@[simp] theorem transferEdge_pageNo (s : State) : (transferEdge s).pageNo = s.pageNo := (transferEdge_keeps s).2.1
@[simp] theorem transferEdge_err (s : State) : (transferEdge s).err = s.err := (transferEdge_keeps s).2.2.1
@[simp] theorem transferEdge_lenW (s : State) : (transferEdge s).lenW = s.lenW := (transferEdge_keeps s).2.2.2.1
@[simp] theorem transferEdge_taken (s : State) : (transferEdge s).taken = s.taken := (transferEdge_keeps s).2.2.2.2

@[simp] theorem transferEdge_inputNow (s : State) : (transferEdge s).inputNow = s.inputNow := by
  rcases transferEdge_cases s with ⟨-, h⟩ | ⟨-, h⟩ | ⟨-, -, h⟩ | ⟨-, -, h⟩ | ⟨-, h⟩ <;> rw [h] <;> simp

/-! ### The cycle -/

/-- With `rst = 0` the byte on offer is owed (R231). -/
theorem dinOwed_run {s : State} (h : s.inputNow.rst = false) : s.dinOwed = s.dinOffer := by
  simp [State.dinOwed, h]

/-- A reset outside `IDLE` ends the duty of R231. -/
theorem dinOwed_reset_busy {s : State} (h : s.inputNow.rst = true) (hp : s.phase ≠ .idle) : s.dinOwed = none := by
  simp [State.dinOwed, h, hp]

/-- A reset in `IDLE` keeps the duty of R231. -/
theorem dinOwed_idle {s : State} (hp : s.phase = .idle) : s.dinOwed = s.dinOffer := by
  simp [State.dinOwed, hp]

theorem dinStable_of_none {s : State} (h : s.dinOwed = none) : s.dinStable = true := by
  simp [State.dinStable, h]

/-- R231: a byte that is owed is on offer, unchanged. -/
theorem dinStable_iff {s : State} {b : Byte} (h : s.dinOwed = some b) :
    s.dinStable = true ↔ s.inputNow.dinValid = true ∧ s.inputNow.dinData = b := by
  simp [State.dinStable, h]

/-- Everything that can be owed after a cycle in which the host keeps R231. -/
theorem nextDinOffer_cases {s : State} (h : s.dinStable = true) :
    s.nextDinOffer = none ∨ (s.inputNow.dinValid = true ∧ s.fireIn = false ∧ s.nextDinOffer = some s.inputNow.dinData) := by
  cases hr : s.inputNow.rst with
  | true =>
    cases ho : s.dinOwed with
    | none => exact .inl (by simp [State.nextDinOffer, hr, ho])
    | some b =>
      obtain ⟨hv, hb⟩ := (dinStable_iff ho).1 h
      exact .inr ⟨hv, fireIn_of_rst hr, by simp [State.nextDinOffer, hr, ho, hb]⟩
  | false =>
    cases hv : s.inputNow.dinValid with
    | false => exact .inl (by simp [State.nextDinOffer, hr, hv])
    | true => cases hf : s.fireIn <;> simp [State.nextDinOffer, hr, hv, hf]

/-- R220: with `rst = 1` the cycle is the reset edge, for every host that keeps R231. -/
theorem cycle_reset {s : State} (h : s.inputNow.rst = true) (hd : s.dinStable = true) (offer : Option PortCmd) :
    cycle offer s = .next (endCycle s (resetRegisters s)) := by
  simp [cycle, h, hd]

/-- R231: a cycle that breaks the duty has no move, with `rst = 1` as with `rst = 0`. -/
theorem cycle_unstable {s : State} (h : s.inputNow.rst = true ∨ s.phase ≠ .unreachable) (hd : s.dinStable = false)
    (offer : Option PortCmd) : cycle offer s = .refused .dinUnstable := by
  rw [cycle, if_neg (by rintro ⟨hr, hu⟩; simp [hr, hu] at h), if_pos hd]

/-- A cycle that the host lets run answers the state after its edge. -/
theorem cycle_run {s : State} (h : s.running = true) {offer : Option PortCmd}
    (hp : s.cmdReady = true → presentable s.lenW offer = true) :
    cycle offer s = .next (endCycle s (registerEdge offer s)) := by
  simp only [State.running, Bool.and_eq_true, Bool.not_eq_true', decide_eq_true_eq] at h
  obtain ⟨⟨hr, hu⟩, hd⟩ := h
  have : ¬ (s.cmdReady = true ∧ presentable s.lenW offer = false) := fun ⟨a, b⟩ => by simp [hp a] at b
  simp [cycle, hr, hu, hd, this]

/-- Everything a cycle that answers a next state can have done. -/
theorem cycle_cases {offer : Option PortCmd} {s t : State} (h : cycle offer s = .next t) :
    (s.inputNow.rst = true ∧ s.dinStable = true ∧ t = endCycle s (resetRegisters s)) ∨
    (s.inputNow.rst = false ∧ s.phase ≠ .unreachable ∧ s.dinStable = true ∧
      (s.cmdReady = true → presentable s.lenW offer = true) ∧ t = endCycle s (registerEdge offer s)) := by
  unfold cycle at h
  split at h
  · simp at h
  · split at h
    · simp at h
    · split at h
      · exact .inl ⟨‹_›, by simp_all, by simpa using h.symm⟩
      · split at h
        · simp at h
        · refine .inr ⟨by simp_all, by simp_all, by simp_all, ?_, by simpa using h.symm⟩
          intro hc
          by_contra hne
          simp_all

/-- The port fields with which a command is presented in this cycle: its own, and what the port carries for those it ignores. -/
def portOf (i : Instr) (s : State) : PortCmd :=
  match i with
  | .ping => ⟨0, s.inputNow.cmdPageNo, s.inputNow.cmdLen⟩
  | .write p d => ⟨1, p, d.length⟩
  | .read p => ⟨2, p, s.inputNow.cmdLen⟩
  | .verify p => ⟨3, p, s.inputNow.cmdLen⟩
  | .quit => ⟨4, s.inputNow.cmdPageNo, s.inputNow.cmdLen⟩

/-- A command's meaning is the cycle with the command on the port. -/
theorem exec_eq_cycle (i : Instr) (s : State) : exec i s = cycle (some (portOf i s)) s := by
  cases i <;> rfl

theorem portOf_kind (i : Instr) (s : State) : (portOf i s).kind = tag i := by
  cases i <;> rfl

theorem tag_legal (i : Instr) : legalTag (tag i) = true := by
  cases i <;> rfl

theorem portOf_legal (i : Instr) (s : State) : legalTag (portOf i s).kind = true := by
  rw [portOf_kind, tag_legal]

theorem portOf_presentable {i : Instr} {w : Nat} (h : i.wf w = true) (s : State) :
    presentable w (some (portOf i s)) = true := by
  cases i with
  | write p d =>
    simp only [Instr.wf, Instr.check] at h
    split at h <;> simp_all [presentable, portOf]
  | ping => rfl
  | read p => rfl
  | verify p => rfl
  | quit => rfl

/-- What is on the command port in this cycle. -/
def offerNow (s : State) : Option PortCmd := if s.inputNow.cmdValid then some s.portCmd else none

/-- A legal tag with a length that fits is fetched as a command, and the command's meaning is the cycle with these very port
values. -/
theorem exec_fetched {s : State} {i : Instr} {d : List Byte}
    (h : decodePort s.lenW s.portCmd d = .ok i) : exec i s = cycle (some s.portCmd) s := by
  unfold decodePort at h
  rw [exec_eq_cycle]
  have hpc : s.portCmd = ⟨s.inputNow.cmdKind, s.inputNow.cmdPageNo, s.inputNow.cmdLen⟩ := rfl
  split at h
  · cases h; simp_all [portOf]
  · split at h
    · split at h
      · split at h
        · cases h; simp_all [portOf]
        · simp at h
      · simp at h
    · split at h
      · cases h; simp_all [portOf]
      · split at h
        · cases h; simp_all [portOf]
        · split at h
          · cases h; simp_all [portOf]
          · simp at h

/-- A step is the cycle with what is on the command port. -/
theorem step_eq_cycle (s : State) : step s = cycle (offerNow s) s := by
  unfold step fetch offerNow
  by_cases hv : s.inputNow.cmdValid = true
  · simp only [hv, if_true]
    cases hd : decodePort s.lenW s.portCmd (List.replicate s.inputNow.cmdLen 0) with
    | ok i => exact exec_fetched hd
    | error e => rfl
  · simp [hv]

/-- Everything a step that answers a next state can have done. -/
theorem step_cases {s t : State} (h : step s = .next t) :
    (s.inputNow.rst = true ∧ s.dinStable = true ∧ t = endCycle s (resetRegisters s)) ∨
    (s.inputNow.rst = false ∧ s.phase ≠ .unreachable ∧ s.dinStable = true ∧
      (s.cmdReady = true → presentable s.lenW (offerNow s) = true) ∧ t = endCycle s (registerEdge (offerNow s) s)) :=
  cycle_cases (step_eq_cycle s ▸ h)

/-- What the host offers is accepted exactly in a cycle with `fire_cmd` (R29, R140). -/
theorem fireCmd_iff (s : State) :
    s.fireCmd = true ↔ s.inputNow.rst = false ∧ s.phase = .idle ∧ s.inputNow.cmdValid = true := by
  simp [State.fireCmd, State.cmdReady]; tauto

/-- A step with `rst = 1` answers a next state for every host that keeps R231 (R220). -/
theorem step_reset {s : State} (h : s.inputNow.rst = true) (hd : s.dinStable = true) :
    step s = .next (endCycle s (resetRegisters s)) := by
  rw [step_eq_cycle, cycle_reset h hd]

/-- The next state of a step with `rst = 1` (R220). -/
theorem step_reset_next {s t : State} (h : s.inputNow.rst = true) (ht : step s = .next t) :
    t = endCycle s (resetRegisters s) := by
  rcases step_cases ht with ⟨-, -, rfl⟩ | ⟨hr, -⟩
  · rfl
  · simp [h] at hr

/-- A step that answers a next state keeps R231. -/
theorem step_dinStable {s t : State} (h : step s = .next t) : s.dinStable = true := by
  rcases step_cases h with ⟨-, hd, -⟩ | ⟨-, -, hd, -⟩ <;> exact hd

/-- What is owed after a step (R231). -/
theorem step_dinOffer {s t : State} (h : step s = .next t) : t.dinOffer = s.nextDinOffer := by
  rcases step_cases h with ⟨-, -, rfl⟩ | ⟨-, -, -, -, rfl⟩ <;> rfl

/-- A step that the host lets run answers the state after its edge. -/
theorem step_run {s : State} (h : s.running = true)
    (hp : s.inputNow.cmdKind = 1 → s.inputNow.cmdLen < 2 ^ s.lenW) :
    step s = .next (endCycle s (registerEdge (offerNow s) s)) := by
  rw [step_eq_cycle, cycle_run h]
  intro _
  unfold offerNow
  split
  · by_cases hk : s.inputNow.cmdKind = 1
    · simp [presentable, State.portCmd, hp hk]
    · simp only [presentable, State.portCmd, Bool.or_eq_true, Bool.not_eq_true', beq_eq_false_iff_ne]
      exact .inl hk
  · rfl

/-- A step with a frame in progress: the output transfer, if there is one, and the host's clear (R151 to R155). -/
theorem step_busy {s t : State} (hr : s.inputNow.rst = false) (hp : s.phase ≠ .idle) (h : step s = .next t) :
    t = endCycle s (clearErrByHost (if s.fireOut then transferEdge s else s)) := by
  rcases step_cases h with ⟨hr', -⟩ | ⟨-, -, -, -, rfl⟩
  · simp [hr] at hr'
  · rw [registerEdge_busy (by simp [State.cmdReady, hp])]

/-- A step in `IDLE` without an accept (R155). -/
theorem step_quiet {s t : State} (hr : s.inputNow.rst = false) (hp : s.phase = .idle) (hc : s.fireCmd = false)
    (h : step s = .next t) : t = endCycle s (clearErrByHost s) := by
  have hv : s.inputNow.cmdValid = false := by
    by_contra hv
    have := (fireCmd_iff s).2 ⟨hr, hp, by simpa using hv⟩
    simp [hc] at this
  rcases step_cases h with ⟨hr', -⟩ | ⟨-, -, -, -, rfl⟩
  · simp [hr] at hr'
  · rw [offerNow, if_neg (by simp [hv]), registerEdge_no_offer ((cmdReady_iff s).2 ⟨hr, hp⟩)]

/-- The accept of a legal tag (R150). -/
theorem step_accept {s t : State} (hf : s.fireCmd = true) (hk : legalTag s.inputNow.cmdKind = true)
    (h : step s = .next t) : t = endCycle s (clearErrByHost (latchCmd s.portCmd s)) := by
  obtain ⟨hr, hp, hv⟩ := (fireCmd_iff s).1 hf
  rcases step_cases h with ⟨hr', -⟩ | ⟨-, -, -, -, rfl⟩
  · simp [hr] at hr'
  · rw [offerNow, if_pos hv, registerEdge_accept ((cmdReady_iff s).2 ⟨hr, hp⟩), acceptCmd_legal (pc := s.portCmd) hk]

/-- The accept of a reserved tag (R201). -/
theorem step_illegal {s t : State} (hf : s.fireCmd = true) (hk : legalTag s.inputNow.cmdKind = false)
    (h : step s = .next t) : t = endCycle s (takeIllegalCommand s) := by
  obtain ⟨hr, hp, hv⟩ := (fireCmd_iff s).1 hf
  rcases step_cases h with ⟨hr', -⟩ | ⟨-, -, -, -, rfl⟩
  · simp [hr] at hr'
  · rw [offerNow, if_pos hv, registerEdge_accept ((cmdReady_iff s).2 ⟨hr, hp⟩), acceptCmd_reserved (pc := s.portCmd) hk]

end Sys2Proof.Machine
end

