-- ==== Sys2Proof/Laws/PerInstr.lean ====
section
/-! SUPPORT. Statements about every command as syntax, one lemma per constructor. -/

namespace Sys2Proof.Laws

/-! ### The payload of a command begins with its opcode, and its length is that of R76. -/

/-- R74, R76: the first payload byte is `0x10` plus the command's tag, and the payload has `n` bytes. -/
def PayloadShape.Statement (i : Instr) : Prop :=
  (encode i).head? = some (Machine.opcodeOfTag (tag i)) ∧ (encode i).length = payloadLen i

theorem PayloadShape.ping : PayloadShape.Statement .ping := ⟨rfl, rfl⟩

theorem PayloadShape.write (p : Byte) (d : List Byte) : PayloadShape.Statement (.write p d) :=
  ⟨rfl, by simp [encode, payloadLen]; omega⟩

theorem PayloadShape.read (p : Byte) : PayloadShape.Statement (.read p) := ⟨rfl, rfl⟩

theorem PayloadShape.verify (p : Byte) : PayloadShape.Statement (.verify p) := ⟨rfl, rfl⟩

theorem PayloadShape.quit : PayloadShape.Statement .quit := ⟨rfl, rfl⟩

end Sys2Proof.Laws
end

