-- ==== Sys2Proof/Laws/Runs.lean ====
section
/-! SUPPORT. Runs of several cycles: how `runCycles`, `along` and `collect` split, and the induction that carries a step
invariant along a run. -/

namespace Sys2Proof.Machine

@[simp] theorem runCycles_zero (s : State) : runCycles 0 s = .next s := rfl
@[simp] theorem along_zero (p : State → Bool) (s : State) : along p 0 s = true := rfl
@[simp] theorem collect_zero {α : Type} (f : State → List α) (s : State) : collect f 0 s = [] := rfl

theorem runCycles_succ {s t : State} (h : step s = .next t) (n : Nat) : runCycles (n + 1) s = runCycles n t := by
  simp [runCycles, h]

theorem along_succ {s t : State} (h : step s = .next t) (p : State → Bool) (n : Nat) :
    along p (n + 1) s = (p s && along p n t) := by
  simp [along, h]

theorem collect_succ {α : Type} {s t : State} (h : step s = .next t) (f : State → List α) (n : Nat) :
    collect f (n + 1) s = f s ++ collect f n t := by
  simp [collect, h]

/-- A run of at least one cycle begins with a step. -/
theorem runCycles_succ_next {n : Nat} {s t : State} (h : runCycles (n + 1) s = .next t) :
    ∃ u, step s = .next u ∧ runCycles n u = .next t := by
  unfold runCycles at h
  split at h
  · exact ⟨_, ‹_›, h⟩
  · simp at h
  · simp at h

theorem along_succ_true {p : State → Bool} {n : Nat} {s : State} (h : along p (n + 1) s = true) :
    p s = true ∧ ∃ u, step s = .next u ∧ along p n u = true := by
  simp only [along, Bool.and_eq_true] at h
  obtain ⟨hp, h⟩ := h
  split at h
  · exact ⟨hp, _, ‹_›, h⟩
  · simp at h
  · simp at h

/-- `along` says `p` of every state in which one of the cycles starts. -/
theorem along_forall {p : State → Bool} {n : Nat} {s : State} (h : along p n s = true) :
    ∀ k x, k < n → runCycles k s = .next x → p x = true := by
  induction n generalizing s with
  | zero => intro k x hk; omega
  | succ n ih =>
    obtain ⟨hp, u, hu, ha⟩ := along_succ_true h
    intro k x hk hx
    cases k with
    | zero => simpa using (by simpa using hx : s = x) ▸ hp
    | succ k => exact ih ha k x (by omega) (by rwa [runCycles_succ hu] at hx)

/-- A run is a run and then another. -/
theorem runCycles_add {m : Nat} {s u : State} (h : runCycles m s = .next u) (n : Nat) :
    runCycles (m + n) s = runCycles n u := by
  induction m generalizing s with
  | zero => simp only [runCycles_zero, Host.Outcome.next.injEq] at h; simp [h]
  | succ m ih =>
    obtain ⟨v, hv, hr⟩ := runCycles_succ_next h
    rw [Nat.add_right_comm, runCycles_succ hv, ih hr]

theorem collect_add {α : Type} (f : State → List α) {m : Nat} {s u : State} (h : runCycles m s = .next u) (n : Nat) :
    collect f (m + n) s = collect f m s ++ collect f n u := by
  induction m generalizing s with
  | zero => simp only [runCycles_zero, Host.Outcome.next.injEq] at h; simp [h]
  | succ m ih =>
    obtain ⟨v, hv, hr⟩ := runCycles_succ_next h
    rw [Nat.add_right_comm, collect_succ hv, collect_succ hv, ih hr, List.append_assoc]

theorem along_add (p : State → Bool) {m : Nat} {s u : State} (h : runCycles m s = .next u) (n : Nat) :
    along p (m + n) s = (along p m s && along p n u) := by
  induction m generalizing s with
  | zero => simp only [runCycles_zero, Host.Outcome.next.injEq] at h; simp [h]
  | succ m ih =>
    obtain ⟨v, hv, hr⟩ := runCycles_succ_next h
    rw [Nat.add_right_comm, along_succ hv, along_succ hv, ih hr, Bool.and_assoc]

/-- What every step keeps, every run keeps. -/
theorem run_keeps {P : State → Prop} (hstep : ∀ s t, P s → step s = .next t → P t) {n : Nat} {s t : State}
    (hs : P s) (h : runCycles n s = .next t) : P t := by
  induction n generalizing s with
  | zero => simp only [runCycles_zero, Host.Outcome.next.injEq] at h; exact h ▸ hs
  | succ n ih =>
    obtain ⟨u, hu, hr⟩ := runCycles_succ_next h
    exact ih (hstep s u hs hu) hr

/-- Every step records the output transfer of its cycle and nothing else (R30). -/
theorem step_sent {s t : State} (h : step s = .next t) : t.sent = s.sent ++ s.sends := by
  rcases step_cases h with ⟨-, -, rfl⟩ | ⟨-, -, -, -, rfl⟩ <;> rw [endCycle_sent] <;> unfold State.sends <;> split <;> simp

/-- A run records its output transfers in order. -/
theorem run_sent {n : Nat} {s t : State} (h : runCycles n s = .next t) : t.sent = s.sent ++ collect State.sends n s := by
  induction n generalizing s with
  | zero => simp only [runCycles_zero, Host.Outcome.next.injEq] at h; simp [h]
  | succ n ih =>
    obtain ⟨u, hu, hr⟩ := runCycles_succ_next h
    rw [ih hr, collect_succ hu, step_sent hu, List.append_assoc]

end Sys2Proof.Machine
end

