-- ==== Sys2Proof/Tests/Slice0.lean ====
section
/-! SUPPORT. The model's own tests. Expected values come from spec/: the vectors of 95_test_vectors.md (S, V, T, E, Z), the
encoding tables of 30_encoding.md, and the rules named at each test. The second half shows, for every obligation with
hypotheses, a concrete state and operands that meet them. -/

namespace Sys2Proof.Tests

open Sys2Proof.Machine

/-! ### Helpers -/

/-- A cycle with a command on the port and nothing else. -/
def offer (k : BitVec 3) (p : Byte) (n : Nat) : Inputs :=
  { readyCycle with cmdValid := true, cmdKind := k, cmdPageNo := p, cmdLen := n }

/-- A cycle with a `page_data` byte on offer. -/
def din (b : Byte) : Inputs := { readyCycle with dinValid := true, dinData := b }

/-- A cycle whose sink takes nothing. -/
def sinkOff : Inputs := { readyCycle with doutReady := false }

/-- A cycle with `rst = 1`. -/
def rstOn : Inputs := { readyCycle with rst := true }

/-- The reset state with this schedule. -/
def idle (l : List Inputs) : State := { State.reset with inputs := l }

/-- A frame of `Write{page_no:0x03, ..}` in this phase, with one byte still to come. -/
def busyIn (ph : Phase) (nib : Bool) (l : List Inputs) : State :=
  { State.reset with phase := ph, nib := nib, kind := 1, pageNo := 0x03, remaining := 1, hold := 0xAB, csum := 0x12, inputs := l }

/-- The step answers a next state with `p`. -/
def gives (s : State) (p : State → Bool) : Bool :=
  match step s with
  | .next t => p t
  | .fault _ => false
  | .refused _ => false

/-- The state after `n` cycles (`s` itself if the run stops). -/
def after (n : Nat) (s : State) : State :=
  match runCycles n s with
  | .next t => t
  | .fault _ => s
  | .refused _ => s

theorem after_eq {n : Nat} {s t : State} (h : runCycles n s = .next t) : after n s = t := by
  simp only [after, h]

theorem runs_to {n : Nat} {s : State} (h : along (fun _ => true) n s = true) : runCycles n s = .next (after n s) := by
  suffices ∃ t, runCycles n s = .next t by
    obtain ⟨t, ht⟩ := this
    rw [after_eq ht, ht]
  induction n generalizing s with
  | zero => exact ⟨s, rfl⟩
  | succ n ih =>
    obtain ⟨-, u, hu, ha⟩ := along_succ_true h
    rw [runCycles_succ hu]
    exact ih ha

theorem steps_to {s : State} (h : along (fun _ => true) 1 s = true) : step s = .next (after 1 s) := by
  have hr := runs_to h
  obtain ⟨u, hu, hr'⟩ := runCycles_succ_next (n := 0) hr
  rw [hu, ← hr']
  rfl

/-! ### Well-formedness: the one check refuses an ill-formed command (R8 with LEN_W = 1: at most one byte) -/

theorem test_pageDataTooLong_refused : (Instr.write 0 [1, 2]).check 1 = some .pageDataTooLong := by decide
theorem test_longest_write_well_formed : (Instr.write 0 [1]).wf 1 = true := by decide
theorem test_lenW_zero_refused : lenWOk 0 = false := by decide

/-! ### Decoding: words written out from the tables of R71, R73 and R74 -/

theorem test_decode_ping : decode 16 [0b00010000] = .ok .ping := by rfl
theorem test_decode_write :
    decode 16 [0b00010001, 0b00000011, 0b00000001, 0b00000010] = .ok (.write 0x03 [0x01, 0x02]) := by rfl
theorem test_decode_read : decode 16 [0b00010010, 0b11111111] = .ok (.read 0xFF) := by rfl
theorem test_decode_verify : decode 16 [0b00010011, 0b00000111] = .ok (.verify 0x07) := by rfl
theorem test_decode_quit : decode 16 [0b00010100] = .ok .quit := by rfl
theorem test_decode_rejects_by_name :
    decode 16 [] = .error .emptyPayload ∧ decode 16 [0x15] = .error (.unknownOpcode 0x15) ∧
    decode 16 [0x0F] = .error (.unknownOpcode 0x0F) ∧ decode 16 [0x12] = .error (.missingPageNo 0x12) ∧
    decode 16 [0x10, 0x00] = .error (.trailingBytes 0x10) ∧ decode 16 [0x13, 1, 2] = .error (.trailingBytes 0x13) ∧
    decode 1 [0x11, 0, 1, 2] = .error .pageDataTooLong := ⟨rfl, rfl, rfl, rfl, rfl, rfl, rfl⟩

/-- P2, P3 and P5: the packed words of the spec's programs. -/
theorem test_cmd_words :
    packCmd (encodePort (.write 0x03 [0x01, 0x02])) = 0x1019 ∧ packCmd (encodePort (.write 0x03 [1, 2, 3])) = 0x1819 ∧
    packCmd (encodePort (.verify 0x03)) = 0x1B ∧ packCmd (encodePort (.read 0x05)) = 0x2A ∧
    packCmd (encodePort .quit) = 0x4 ∧ packCmd (encodePort .ping) = 0x0 := by decide

/-- A placed table word runs as the first instruction after reset. -/
theorem test_placed_words_run :
    gives (State.reset.withFetchWord 8 0x10) (fun t => t.phase == .hdr && t.kind == 0) = true ∧
    gives (State.reset.withFetchWord 8 0x11) (fun t => t.phase == .hdr && t.kind == 1 && t.remaining == 0) = true ∧
    gives (State.reset.withFetchWord 8 0x12) (fun t => t.phase == .hdr && t.kind == 2) = true ∧
    gives (State.reset.withFetchWord 8 0x13) (fun t => t.phase == .hdr && t.kind == 3) = true ∧
    gives (State.reset.withFetchWord 8 0x14) (fun t => t.phase == .hdr && t.kind == 4) = true := by decide

/-! ### Frames: the source's scenarios and the spec's vectors -/

/-- S1 (with C1: the checksum of Ping is 0x10). -/
theorem test_S1_ping : frame .ping = [0xF0, 0x00, 0x70, 0x01, 0x01, 0x00, 0x01, 0x00, 0xF7] := by decide
/-- S2. -/
theorem test_S2_quit : frame .quit = [0xF0, 0x00, 0x70, 0x01, 0x01, 0x04, 0x01, 0x04, 0xF7] := by decide
/-- S3. -/
theorem test_S3_read :
    frame (.read 0x05) = [0xF0, 0x00, 0x70, 0x01, 0x01, 0x02, 0x00, 0x05, 0x01, 0x07, 0xF7] := by decide
/-- S4. -/
theorem test_S4_write :
    frame (.write 0x00 [0xAB]) =
      [0xF0, 0x00, 0x70, 0x01, 0x01, 0x01, 0x00, 0x00, 0x0A, 0x0B, 0x0B, 0x0A, 0xF7] := by decide
/-- S5 with p = 0x07. -/
theorem test_S5_write_empty :
    frame (.write 0x07 []) = [0xF0, 0x00, 0x70, 0x01, 0x01, 0x01, 0x00, 0x07, 0x01, 0x06, 0xF7] := by decide
/-- V7. -/
theorem test_V7_verify :
    frame (.verify 0xFF) = [0xF0, 0x00, 0x70, 0x01, 0x01, 0x03, 0x0F, 0x0F, 0x0E, 0x0C, 0xF7] := by decide
/-- V13 and V14: all-ones bytes, 0x80, and a data byte equal to the start byte. -/
theorem test_V13_V14_write :
    frame (.write 0xFF [0xFF, 0x00, 0x80]) =
      [0xF0, 0x00, 0x70, 0x01, 0x01, 0x01, 0x0F, 0x0F, 0x0F, 0x0F, 0x00, 0x00, 0x08, 0x00, 0x09, 0x01, 0xF7] ∧
    frame (.write 0x01 [0xF0, 0x0F]) =
      [0xF0, 0x00, 0x70, 0x01, 0x01, 0x01, 0x00, 0x01, 0x0F, 0x00, 0x00, 0x0F, 0x0E, 0x0F, 0xF7] := by decide

/-! ### Cycles: one step each, from the traces T1 and T2 and the vectors E1 to E8 and Z2 -/

/-- T2, cycle 1: the accept of a Write with L = 2. -/
theorem test_T2_accept :
    gives (idle [offer 1 0x03 2])
      (fun t => t.phase == .hdr && t.kind == 1 && t.pageNo == 0x03 && t.remaining == 2 && t.csum == 0) = true := by decide
/-- T1, cycle 4: a stall keeps the offered byte 0x70. -/
theorem test_T1_stall :
    gives { busyIn .hdr false [sinkOff, readyCycle] with hidx := 2 }
      (fun t => t.phase == .hdr && t.hidx == 2 && t.doutValid && t.doutData == 0x70) = true := by decide
/-- T1, cycle 6: the last header byte. -/
theorem test_T1_header_end :
    gives { busyIn .hdr false [readyCycle] with hidx := 3 }
      (fun t => t.phase == .opc && t.hidx == 0 && t.sent == [⟨0x01, false⟩]) = true := by decide
/-- T2, cycle 6: the opcode's high nibble. -/
theorem test_T2_opcode_high :
    gives { busyIn .opc false [readyCycle] with csum := 0 }
      (fun t => t.hold == 0x11 && t.csum == 0x11 && t.nib && t.sent == [⟨0x01, false⟩]) = true := by decide
/-- T1, cycle 8: after the opcode's low nibble Ping goes to CSUM. -/
theorem test_T1_opcode_low :
    gives { busyIn .opc true [readyCycle] with kind := 0, hold := 0x10, remaining := 0 }
      (fun t => t.phase == .csum && !t.nib && t.sent == [⟨0x00, false⟩]) = true := by decide
/-- T2, cycle 12: a `page_data` byte is taken with its high nibble. -/
theorem test_T2_data_high :
    gives { busyIn .data false [din 0x01] with remaining := 2 }
      (fun t => t.hold == 0x01 && t.csum == 0x13 && t.remaining == 1 && t.nib && t.taken == [0x01]) = true := by decide
/-- T2, cycle 13: the offered next byte waits while the low nibble goes out. -/
theorem test_T2_data_low :
    gives { busyIn .data true [din 0x02] with hold := 0x01 }
      (fun t => t.phase == .data && !t.nib && t.taken == [] && t.dinOffer == some 0x02 && t.sent == [⟨0x01, false⟩]) = true := by
  decide
/-- T2, cycle 10: no byte on offer, no output. -/
theorem test_T2_data_waits :
    (busyIn .data false [readyCycle]).dinReady = true ∧ (busyIn .data false [readyCycle]).doutValid = false := by decide
/-- T2, cycle 16: CSUM does not fold the checksum into itself. -/
theorem test_T2_csum_high :
    gives { busyIn .csum false [readyCycle] with csum := 0x11 }
      (fun t => t.hold == 0x11 && t.csum == 0x11 && t.nib && t.sent == [⟨0x01, false⟩]) = true := by decide
/-- T2, cycle 18: the footer. -/
theorem test_T2_footer :
    gives (busyIn .ftr false [readyCycle]) (fun t => t.phase == .idle && t.sent == [⟨0xF7, true⟩]) = true := by decide
/-- E1. -/
theorem test_E1_illegal : gives (idle [offer 5 0 0]) (fun t => t.err && t.phase == .idle && t.sent == []) = true := by decide
/-- E2: set wins over clear. -/
theorem test_E2_set_wins : gives (idle [{ offer 7 0 0 with errClr := true }]) (fun t => t.err) = true := by decide
/-- E3. -/
theorem test_E3_clear :
    gives { idle [{ readyCycle with errClr := true }] with err := true } (fun t => !t.err) = true := by decide
/-- E4: a legal accept does not clear the flag. -/
theorem test_E4_accept_keeps_err :
    gives { idle [offer 2 0x12 0] with err := true } (fun t => t.err && t.phase == .hdr && t.kind == 2) = true := by decide
/-- E5: no accept while busy. -/
theorem test_E5_no_accept_while_busy :
    gives (busyIn .hdr false [offer 6 0 0]) (fun t => !t.err && t.phase == .hdr && t.kind == 1) = true := by decide
/-- E6, E7 and Z2: reset wins. -/
theorem test_E7_reset_wins :
    gives { busyIn .data false [{ offer 5 0 0 with rst := true, dinValid := true }] with err := true }
      (fun t => !t.err && t.phase == .idle && t.sent == [] && t.taken == []) = true := by decide
/-- R231 over a reset: in `IDLE` the duty stays and a withdrawal has no move; a reset in the middle of a frame ends it (R223). -/
theorem test_din_duty_over_reset :
    gives { idle [{ din 1 with rst := true }] with dinOffer := some 1 } (fun t => t.dinOffer == some 1) = true ∧
    gives { idle [rstOn] with dinOffer := some 1 } (fun _ => true) = false ∧
    gives { busyIn .opc true [rstOn] with dinOffer := some 1 } (fun t => t.dinOffer == none && t.phase == .idle) = true := by
  decide

/-- U7: a withdrawn `din` offer has no move. -/
theorem test_U7_withdrawn :
    (match step { busyIn .data false [readyCycle] with dinOffer := some 0x01 } with
      | .refused r => decide (r = .dinUnstable) | .next _ => false | .fault _ => false) = true := by decide

/-! ### Witnesses: for every obligation with hypotheses, operands that meet them -/

theorem idle_inv (l : List Inputs) : SeqInv (idle l) := by
  constructor <;> simp [idle, State.reset, Config.lenW]

theorem data_inv : SeqInv (busyIn .data false [din 0x01]) := by
  constructor <;> decide

theorem witness_TagsAndOpcodes :
    decodePort 16 ⟨5, 0, 0⟩ [] = .error (.reservedTag 5) ∧ decodePort 16 ⟨7, 0xFF, 1⟩ [] = .error (.reservedTag 7) :=
  ⟨rfl, rfl⟩

theorem witness_FrameLength : (Instr.write 0 (List.replicate 65535 0)).wf 16 = true := by
  simp only [Instr.wf, Instr.check, List.length_replicate]; rfl

theorem witness_PortRoundTrip :
    (Instr.write 0x03 [1]).wf 1 = true ∧ portFits (.write 0x03 [1]) ⟨1, 0x03, 1⟩ = true ∧
    decodePort 1 ⟨1, 0x03, 1⟩ [1] = .ok (.write 0x03 [1]) := ⟨rfl, rfl, rfl⟩

theorem witness_CmdWordLayout : (1 : Nat) < 2 ^ 1 ∧ (65535 : Nat) < 2 ^ 16 := by decide

theorem witness_ChecksumIsXorFold : List.Perm [(0x11 : Byte), 0x03] [0x03, 0x11] := List.Perm.swap _ _ _

theorem witness_FrameFormat : (encode .quit)[0]? = some 0x14 ∧ (encode (.write 0 [7]))[2]? = some 7 := by decide

theorem witness_NibbleRange :
    (frame .ping)[4]? = some 0x01 ∧ 7 + 1 < (frame .ping).length ∧ (frame .ping)[7]? = some 0x00 := by decide

theorem witness_FramesAreInjective : frame (.read 1) = frame (.read 1) := rfl

theorem witness_ByteClasses :
    (frame .ping)[0]? = some 0xF0 ∧ (frame .ping)[8]? = some 0xF7 ∧ frame .ping <+: frame .ping :=
  ⟨by decide, by decide, List.prefix_rfl⟩

theorem witness_StepRunsOfferedCommand :
    (idle [offer 1 0x03 2]).offers (.write 0x03 [1, 2]) = true ∧ (Instr.write 0x03 [1, 2]).wf (idle []).lenW = true ∧
    (idle []).inputNow.cmdValid = false ∧
    (idle [offer 5 0 0]).inputNow.cmdValid = true ∧ 5 ≤ (idle [offer 5 0 0]).inputNow.cmdKind.toNat := by decide

theorem witness_PingAccepted : (idle [offer 0 0 0]).canAccept = true := by decide
theorem witness_WriteAccepted :
    (idle [offer 1 0 1]).canAccept = true ∧ [(0xAB : Byte)].length < 2 ^ ({ idle [] with lenW := 1 } : State).lenW := by decide
theorem witness_ReadAccepted : (idle [offer 2 5 0]).canAccept = true := by decide
theorem witness_VerifyAccepted : (idle [offer 3 7 0]).canAccept = true := by decide
theorem witness_QuitAccepted : (idle [offer 4 0 0]).canAccept = true := by decide

/-- A Write with one `page_data` byte, at full rate. -/
def writeRun : State := idle (offer 1 0x03 1 :: deliverData [0xAB])

theorem writeRun_ends : FrameEnds (after 1 writeRun) 12 (after 13 writeRun) (after 14 writeRun) where
  goesOn := by decide
  run := by rfl
  last := by decide
  final := by rfl

theorem writeRun_exec : exec (.write 0x03 [0xAB]) writeRun = .next (after 1 writeRun) := by rfl

theorem witness_CommandSendsItsFrame :
    SeqInv writeRun ∧ writeRun.canAccept = true ∧ (Instr.write 0x03 [0xAB]).wf writeRun.lenW = true ∧
    exec (.write 0x03 [0xAB]) writeRun = .next (after 1 writeRun) ∧
    FrameEnds (after 1 writeRun) 12 (after 13 writeRun) (after 14 writeRun) ∧
    collect State.takes 13 (after 1 writeRun) = [0xAB] :=
  ⟨idle_inv _, by decide, by decide, writeRun_exec, writeRun_ends, by decide⟩

theorem writeRun_hostReady :
    ∀ k x, k < 13 → runCycles k (after 1 writeRun) = .next x → x.hostReady = true :=
  along_forall (by decide)

theorem witness_CommandCompletesAtFullRate :
    SeqInv writeRun ∧ writeRun.canAccept = true ∧ 2 * payloadLen (.write 0x03 [0xAB]) + 7 = 13 ∧
    ∀ k x, k < 13 → runCycles k (after 1 writeRun) = .next x → x.hostReady = true :=
  ⟨idle_inv _, by decide, by decide, writeRun_hostReady⟩

theorem witness_CommandWaitsWhileBusy : (busyIn .hdr false [offer 4 0 0]).phase ≠ .idle := by decide

theorem witness_WriteLengthBound :
    ({ idle [] with lenW := 1 } : State).canAccept = true ∧ [(1 : Byte)].length ≤ 2 ^ 1 - 1 ∧
    2 ^ 1 - 1 < [(1 : Byte), 2].length := by decide

theorem witness_IgnoredFieldsDoNotMatter :
    sameButCommand (offer 0 0x55 7) (offer 0 0xAA 0) ∧
    exec .ping ((idle []).withPorts (offer 0 0x55 7)) = .next (after 1 (idle [offer 0 0x55 7])) :=
  ⟨⟨rfl, rfl, rfl, rfl, rfl⟩, by rfl⟩

theorem witness_CommandReady :
    (busyIn .ftr false [offer 4 0 0]).outputs.cmdReady = false ∧
    (busyIn .ftr false [offer 4 0 0]).inputNow.rst = false ∧
    step (busyIn .ftr false [offer 4 0 0]) = .next (after 1 (busyIn .ftr false [offer 4 0 0])) :=
  ⟨by decide, by decide, steps_to (by decide)⟩

theorem witness_OutputData :
    (busyIn .hdr false []).doutValid = true ∧ (busyIn .opc false []).doutValid = true ∧
    (busyIn .pno false []).doutValid = true ∧ (busyIn .data false [din 1]).doutValid = true ∧
    (busyIn .csum false []).doutValid = true ∧ (busyIn .data true []).doutValid = true ∧
    (busyIn .ftr false []).doutValid = true := by decide

theorem witness_InputReady : (busyIn .data false [din 1]).fireIn = true := by decide

theorem witness_OutputValid : (busyIn .data false []).phase ≠ .unreachable := by decide

theorem witness_CombinationalPaths :
    ¬ ((idle []).phase = .data ∧ (idle []).nib = false) ∧ ¬ ((busyIn .data true []).phase = .data ∧ (busyIn .data true []).nib = false) ∧
    (busyIn .data false [din 1]).phase = .data ∧ (busyIn .data false [din 1]).nib = false ∧
    (busyIn .data false [din 1]).inputNow.rst = false ∧ (busyIn .data false [din 1]).inputNow.dinValid = true := by decide

/-- `DATA` with a byte on offer that the sink does not take, and the same offer in the next cycle. -/
def heldData : State := busyIn .data false [{ din 0x01 with doutReady := false }, din 0x01]

theorem witness_OfferIsStable :
    heldData.outputs.doutValid = true ∧ heldData.inputNow.doutReady = false ∧ step heldData = .next (after 1 heldData) ∧
    (after 1 heldData).inputNow.rst = false ∧ (after 1 heldData).inputNow.dinValid = heldData.inputNow.dinValid ∧
    (after 1 heldData).inputNow.dinData = heldData.inputNow.dinData :=
  ⟨by decide, by decide, steps_to (by decide), by decide, by decide, by decide⟩

theorem witness_AcceptEdge :
    (idle [offer 4 0 0]).fireCmd = true ∧ (idle [offer 4 0 0]).dinStable = true ∧
    (idle [offer 4 0 0]).inputNow.cmdKind.toNat ≤ 4 ∧
    (idle [offer 1 0 65535]).fireCmd = true ∧ (idle [offer 1 0 65535]).inputNow.cmdLen < 2 ^ (idle []).lenW ∧
    (idle [offer 5 0 0]).fireCmd = true ∧ 4 < (idle [offer 5 0 0]).inputNow.cmdKind.toNat := by decide

theorem witness_HeaderEdge :
    (busyIn .hdr false []).fireOut = true ∧ (busyIn .hdr false []).hidx = 0 ∧
    step (busyIn .hdr false []) = .next (after 1 (busyIn .hdr false [])) ∧
    (∀ k x, k < 4 → runCycles k (busyIn .hdr false []) = .next x → x.hostReady = true) ∧
    ({ busyIn .hdr false [] with hidx := 3 } : State).fireOut = true :=
  ⟨by decide, by decide, steps_to (by decide), along_forall (by decide), by decide⟩

theorem witness_HighNibbleEdge :
    (busyIn .data false [din 1]).fireOut = true ∧ step (busyIn .data false [din 1]) = .next (after 1 (busyIn .data false [din 1])) ∧
    (busyIn .data false [din 1]).remaining < 2 ^ (busyIn .data false [din 1]).lenW ∧
    (busyIn .opc false []).fireOut = true ∧ (busyIn .pno false []).fireOut = true ∧ (busyIn .csum false []).fireOut = true :=
  ⟨by decide, steps_to (by decide), by decide, by decide, by decide, by decide⟩

/-- The opcode's high nibble, one cycle in which the sink takes nothing, then its low nibble. -/
def opcodePair : State := busyIn .opc false [readyCycle, sinkOff, readyCycle]

theorem witness_LowNibbleEdge :
    (busyIn .opc true []).fireOut = true ∧ step (busyIn .opc true []) = .next (after 1 (busyIn .opc true [])) ∧
    (busyIn .pno true []).fireOut = true ∧ (busyIn .data true []).fireOut = true ∧ (busyIn .csum true []).fireOut = true ∧
    opcodePair.fireOut = true ∧ step opcodePair = .next (after 1 opcodePair) ∧
    along (fun x => x.notReset && !x.fireOut) 1 (after 1 opcodePair) = true ∧
    runCycles 1 (after 1 opcodePair) = .next (after 1 (after 1 opcodePair)) ∧
    (after 1 (after 1 opcodePair)).fireOut = true :=
  ⟨by decide, steps_to (by decide), by decide, by decide, by decide, by decide, steps_to (by decide), by decide,
    runs_to (by decide), by decide⟩

theorem witness_FooterEdge :
    (busyIn .ftr false []).fireOut = true ∧ step (busyIn .ftr false []) = .next (after 1 (busyIn .ftr false [])) ∧
    (after 1 (busyIn .ftr false [])).inputNow.rst = false :=
  ⟨by decide, steps_to (by decide), by decide⟩

theorem witness_Stall :
    (busyIn .opc false [sinkOff]).inputNow.rst = false ∧ (busyIn .opc false [sinkOff]).fireCmd = false ∧
    (busyIn .opc false [sinkOff]).fireOut = false ∧
    step (busyIn .opc false [sinkOff]) = .next (after 1 (busyIn .opc false [sinkOff])) ∧
    (idle []).fireCmd = false ∧ (idle []).fireOut = false ∧ step (idle []) = .next (after 1 (idle [])) :=
  ⟨by decide, by decide, by decide, steps_to (by decide), by decide, by decide, steps_to (by decide)⟩

/-- Each premise of `OnlyTransfersMoveData` about a changed register is met by a step that changes it. -/
theorem witness_OnlyTransfersMoveData :
    step (idle [offer 4 1 0]) = .next (after 1 (idle [offer 4 1 0])) ∧ (after 1 (idle [offer 4 1 0])).kind ≠ 0 ∧
    step (busyIn .data false [din 1]) = .next (after 1 (busyIn .data false [din 1])) ∧
    (after 1 (busyIn .data false [din 1])).hold ≠ (busyIn .data false [din 1]).hold ∧
    (after 1 (busyIn .data false [din 1])).csum ≠ (busyIn .data false [din 1]).csum ∧
    (after 1 (busyIn .data false [din 1])).remaining ≠ (busyIn .data false [din 1]).remaining :=
  ⟨steps_to (by decide), by decide, steps_to (by decide), by decide, by decide, by decide⟩

theorem witness_InputsSampledAtTransfers :
    sameButCommand (offer 4 0 0) (offer 1 9 2) ∧ ((busyIn .pno false []).withPorts (offer 4 0 0)).fireCmd = false ∧
    ((busyIn .pno false []).withPorts (offer 1 9 2)).fireCmd = false ∧
    ((busyIn .data true []).withPorts (din 1)).fireIn = false ∧
    step ((busyIn .data true []).withPorts (din 1)) = .next (after 1 ((busyIn .data true []).withPorts (din 1))) ∧
    step ((busyIn .data true []).withPorts { din 1 with dinData := 2 }) =
      .next (after 1 ((busyIn .data true []).withPorts { din 1 with dinData := 2 })) ∧
    (idle [offer 1 9 2]).fireCmd = true ∧ step (idle [offer 1 9 2]) = .next (after 1 (idle [offer 1 9 2])) ∧
    (busyIn .data false [din 1]).fireIn = true ∧
    step (busyIn .data false [din 1]) = .next (after 1 (busyIn .data false [din 1])) :=
  ⟨⟨rfl, rfl, rfl, rfl, rfl⟩, by decide, by decide, by decide, steps_to (by decide), steps_to (by decide), by decide,
    steps_to (by decide), by decide, steps_to (by decide)⟩

theorem witness_ErrUpdate :
    step ((idle []).withPorts (offer 5 0 0)) = .next (after 1 ((idle []).withPorts (offer 5 0 0))) ∧
    step ((idle []).withPorts { offer 5 0 0 with errClr := true }) =
      .next (after 1 ((idle []).withPorts { offer 5 0 0 with errClr := true })) ∧
    step ((idle []).withPorts rstOn) = .next (after 1 ((idle []).withPorts rstOn)) :=
  ⟨steps_to (by decide), steps_to (by decide), steps_to (by decide)⟩

theorem witness_IllegalCommand :
    (idle [offer 7 0 0]).fireCmd = true ∧ (idle [offer 7 0 0]).phase = .idle ∧
    5 ≤ (idle [offer 7 0 0]).inputNow.cmdKind.toNat ∧ (idle [offer 7 0 0]).dinStable = true ∧
    step (idle [offer 7 0 0]) = .next (after 1 (idle [offer 7 0 0])) ∧ (idle [offer 7 0 0]).err = false ∧
    (after 1 (idle [offer 7 0 0])).err = true :=
  ⟨by decide, by decide, by decide, by decide, steps_to (by decide), by decide, by decide⟩

theorem witness_ErrIsOnlyAFlag :
    step (idle [offer 5 0 0]) = .next (after 1 (idle [offer 5 0 0])) ∧
    (after 1 (idle [offer 5 0 0])).err ≠ (idle [offer 5 0 0]).err ∧
    exec .quit (idle [offer 4 0 0]) = .next (after 1 (idle [offer 4 0 0])) ∧
    (idle [offer 4 0 0]).inputNow.rst = false ∧ (idle [offer 4 0 0]).inputNow.errClr = false :=
  ⟨steps_to (by decide), by decide, by rfl, by decide, by decide⟩

theorem witness_StatusAfterAccept :
    (idle [offer 4 0 0]).fireCmd = true ∧ step (idle [offer 4 0 0]) = .next (after 1 (idle [offer 4 0 0])) ∧
    (idle [offer 4 0 0]).inputNow.cmdKind.toNat ≤ 4 ∧ (after 1 (idle [offer 4 0 0])).inputNow.rst = false ∧
    5 ≤ (idle [offer 5 0 0]).inputNow.cmdKind.toNat :=
  ⟨by decide, steps_to (by decide), by decide, by decide, by decide⟩

theorem witness_ResetEdge :
    (busyIn .data false [rstOn]).inputNow.rst = true ∧ (busyIn .unreachable true [rstOn]).inputNow.rst = true ∧
    (idle [rstOn]).inputNow.rst = true ∧ (idle [rstOn]).dinStable = true := by decide

theorem witness_FirstCycleAfterReset :
    along (fun x => x.inputNow.rst) (1 + 1) (busyIn .pno true [rstOn, rstOn]) = true ∧
    runCycles (1 + 1) (busyIn .pno true [rstOn, rstOn]) = .next (after 2 (busyIn .pno true [rstOn, rstOn])) ∧
    (after 2 (busyIn .pno true [rstOn, rstOn])).inputNow.rst = false :=
  ⟨by decide, runs_to (by decide), by decide⟩

/-- An idle block whose host owes the `page_data` byte 1, with this cycle. -/
def owing (inp : Inputs) : State := { idle [inp] with dinOffer := some 1 }

theorem witness_DinOfferMustStay :
    step (idle [din 1]) = .next (after 1 (idle [din 1])) ∧ (idle [din 1]).inputNow.dinValid = true ∧
    (idle [din 1]).fireIn = false ∧
    step (owing { din 1 with rst := true }) = .next (after 1 (owing { din 1 with rst := true })) ∧
    (owing { din 1 with rst := true }).phase = .idle ∧
    step (busyIn .data false [din 1]) = .next (after 1 (busyIn .data false [din 1])) ∧
    (busyIn .data false [din 1]).fireIn = true ∧
    step (idle [readyCycle]) = .next (after 1 (idle [readyCycle])) ∧ (idle [readyCycle]).inputNow.dinValid = false ∧
    step (busyIn .opc false [{ din 1 with rst := true }]) = .next (after 1 (busyIn .opc false [{ din 1 with rst := true }])) ∧
    (owing (din 2)).inputNow.rst = false ∧ (owing (din 2)).phase ≠ .unreachable ∧ (owing (din 2)).inputNow.dinData ≠ 1 ∧
    (owing rstOn).inputNow.rst = true ∧ (owing rstOn).phase = .idle ∧ (owing rstOn).inputNow.dinValid = false ∧
    (idle []).dinOffer = none :=
  ⟨steps_to (by decide), by decide, by decide, steps_to (by decide), by decide, steps_to (by decide), by decide,
    steps_to (by decide), by decide, steps_to (by decide), by decide, by decide, by decide, by decide, by decide, by decide,
    by decide⟩

theorem witness_NoOtherStop :
    (idle [rstOn]).inputNow.rst = true ∧ (idle [rstOn]).dinStable = true ∧ (idle [offer 1 0 65535]).phase ≠ .unreachable ∧
    (idle [offer 1 0 65535]).dinStable = true ∧ (idle [offer 1 0 65535]).inputNow.cmdLen < 2 ^ (idle []).lenW := by decide

theorem witness_InvariantsKept :
    SeqInv (busyIn .data false [din 0x01]) ∧
    step (busyIn .data false [din 0x01]) = .next (after 1 (busyIn .data false [din 0x01])) ∧
    1 ≤ (busyIn .ftr true [rstOn]).lenW ∧ (busyIn .ftr true [rstOn]).inputNow.rst = true ∧
    step (busyIn .ftr true [rstOn]) = .next (after 1 (busyIn .ftr true [rstOn])) ∧
    (busyIn .unreachable true []).phase = .unreachable ∧ (busyIn .unreachable true []).inputNow.rst = false :=
  ⟨data_inv, steps_to (by decide), by decide, by decide, steps_to (by decide), by decide, by decide⟩

theorem writeRun_accept : step writeRun = .next (after 1 writeRun) := steps_to (by decide)

theorem witness_CounterSafety :
    SeqInv (busyIn .data false [din 0x01]) ∧ (busyIn .data false [din 0x01]).fireIn = true ∧
    step (busyIn .data false [din 0x01]) = .next (after 1 (busyIn .data false [din 0x01])) ∧
    step (busyIn .pno true []) = .next (after 1 (busyIn .pno true [])) ∧ (after 1 (busyIn .pno true [])).phase = .data ∧
    SeqInv writeRun ∧ writeRun.fireCmd = true ∧ writeRun.inputNow.cmdKind.toNat ≤ 4 ∧
    step writeRun = .next (after 1 writeRun) ∧ FrameEnds (after 1 writeRun) 12 (after 13 writeRun) (after 14 writeRun) :=
  ⟨data_inv, by decide, steps_to (by decide), steps_to (by decide), by decide, idle_inv _, by decide, by decide,
    writeRun_accept, writeRun_ends⟩

theorem witness_PhaseSequence_and_FrameEquivalence :
    SeqInv writeRun ∧ writeRun.phase = .idle ∧ writeRun.fireCmd = true ∧ writeRun.inputNow.cmdKind.toNat ≤ 4 ∧
    step writeRun = .next (after 1 writeRun) ∧ FrameEnds (after 1 writeRun) 12 (after 13 writeRun) (after 14 writeRun) :=
  ⟨idle_inv _, by decide, by decide, by decide, writeRun_accept, writeRun_ends⟩

theorem witness_OutputIsWholeFrames :
    SeqInv writeRun ∧ writeRun.phase = .idle ∧ along State.notReset 14 writeRun = true ∧
    runCycles 14 writeRun = .next (after 14 writeRun) ∧ (after 14 writeRun).phase = .idle :=
  ⟨idle_inv _, by decide, by decide, runs_to (by decide), by decide⟩

theorem witness_Progress :
    SeqInv writeRun ∧ writeRun.fireCmd = true ∧ writeRun.inputNow.cmdKind.toNat ≤ 4 ∧
    step writeRun = .next (after 1 writeRun) ∧
    (∀ k x, k < 2 * 3 + 7 → runCycles k (after 1 writeRun) = .next x → x.hostReady = true) ∧
    (busyIn .data false [readyCycle, sinkOff]).phase ≠ .idle ∧
    (∀ k x, k < 2 → runCycles k (busyIn .data false [readyCycle, sinkOff]) = .next x → x.hostWithholds = true) :=
  ⟨idle_inv _, by decide, by decide, writeRun_accept, writeRun_hostReady, by decide, along_forall (by decide)⟩

theorem witness_NoOutputDependsOnUnspecified :
    SeqInv writeRun ∧ Alike writeRun { writeRun with kind := 7, pageNo := 0xFF, remaining := 9, hold := 1, csum := 2, err := true } ∧
    runCycles 14 writeRun = .next (after 14 writeRun) ∧
    Alike writeRun { writeRun with kind := 7, pageNo := 0xFF, remaining := 9, hold := 1, csum := 2 } ∧
    ({ writeRun with kind := 7, pageNo := 0xFF, remaining := 9, hold := 1, csum := 2 } : State).err = writeRun.err :=
  ⟨idle_inv _, by constructor <;> decide, runs_to (by decide), by constructor <;> decide, rfl⟩

end Sys2Proof.Tests
end

section
/-! The accept of a command: the outcome of a cycle that can accept is decided by whether the port can carry the command. -/

namespace Sys2Proof.Machine

theorem canAccept_iff (s : State) :
    s.canAccept = true ↔ s.inputNow.rst = false ∧ s.phase = .idle ∧ s.dinStable = true := by
  simp [State.canAccept, and_assoc]

theorem running_of_canAccept {s : State} (h : s.canAccept = true) : s.running = true := by
  obtain ⟨hr, hp, hd⟩ := (canAccept_iff s).1 h
  simp [State.running, hr, hp, hd]

theorem cmdReady_of_canAccept {s : State} (h : s.canAccept = true) : s.cmdReady = true := by
  obtain ⟨hr, hp, -⟩ := (canAccept_iff s).1 h
  exact (cmdReady_iff s).2 ⟨hr, hp⟩

/-- R8, log entry 16: the accept of a command that the port cannot carry has no move. -/
theorem cycle_not_presentable {s : State} (h : s.canAccept = true) {offer : Option PortCmd}
    (hp : presentable s.lenW offer = false) : cycle offer s = .refused .cmdLenNotPresentable := by
  obtain ⟨hr, hi, hd⟩ := (canAccept_iff s).1 h
  simp [cycle, hr, hi, hd, cmdReady_of_canAccept h, hp]

/-- A cycle that can accept answers a next state exactly for an offer that the port can carry. -/
theorem cycle_answers_iff {s : State} (h : s.canAccept = true) (offer : Option PortCmd) :
    (∃ t, cycle offer s = .next t) ↔ presentable s.lenW offer = true := by
  constructor
  · rintro ⟨t, ht⟩
    by_contra hp
    rw [cycle_not_presentable h (by simpa using hp)] at ht
    cases ht
  · intro hp
    exact ⟨_, cycle_run (running_of_canAccept h) fun _ => hp⟩

theorem presentable_write (w : Nat) (p : Byte) (d : List Byte) (s : State) :
    presentable w (some (portOf (.write p d) s)) = decide (d.length < 2 ^ w) := rfl

/-- R8: a Write is presented with `LEN_W` bits for its number of bytes. -/
theorem presentable_write_iff (w : Nat) (p : Byte) (d : List Byte) (s : State) :
    presentable w (some (portOf (.write p d) s)) = true ↔ d.length ≤ 2 ^ w - 1 := by
  rw [presentable_write, decide_eq_true_iff, Nat.le_sub_one_iff_lt (Nat.two_pow_pos w)]

/-- Settles O27: a Write is offered as its port value, which the port can carry exactly up to `2 ^ LEN_W - 1` bytes. -/
theorem writeLengthBound : Obligations.WriteLengthBound := by
  intro s p d h
  rw [exec_eq_cycle]
  constructor
  · exact (cycle_answers_iff h _).trans (presentable_write_iff s.lenW p d s)
  · intro hlong
    have hp : presentable s.lenW (some (portOf (.write p d) s)) = false := by
      rw [presentable_write, decide_eq_false_iff_not]
      omega
    exact cycle_not_presentable h hp

end Sys2Proof.Machine
end

section
/-! What a cycle of the running block can be, and what alone changes each register and each record of transfers (R30, R35). -/

namespace Sys2Proof.Machine

/-! ### One inversion of a step without reset -/

theorem legalTag_iff (k : BitVec 3) : legalTag k = true ↔ k.toNat ≤ 4 := by
  simp [legalTag]

theorem legalTag_eq_false_iff (k : BitVec 3) : legalTag k = false ↔ 5 ≤ k.toNat := by
  simp [legalTag]; omega

theorem fireCmd_of_busy {s : State} (h : s.phase ≠ .idle) : s.fireCmd = false := by
  simp [State.fireCmd, State.cmdReady, h]

theorem fireIn_of_fireCmd {s : State} (h : s.fireCmd = true) : s.fireIn = false := by
  obtain ⟨-, hp, -⟩ := (fireCmd_iff s).1 h
  exact fireIn_of_ne_data (by simp [hp])

/-- R142, R152: in `DATA` an output transfer of a high nibble takes the byte. -/
theorem fireIn_of_fireOut {s : State} (h : s.fireOut = true) (hp : s.phase = .data) (hn : s.nib = false) :
    s.fireIn = true := by
  obtain ⟨hr, ho, hd⟩ := (fireOut_iff s).1 h
  have hv : s.inputNow.dinValid = true := by simpa [State.offersByte, hp, hn] using ho
  exact (fireIn_iff s).2 ⟨hr, hp, hn, hv, hd⟩

/-- The registers after a cycle without reset: an accept (R150), an IllegalCommand (R201), an output transfer
(R151 to R154), or a stall (R155). -/
theorem step_run_cases {s t : State} (hr : s.inputNow.rst = false) (h : step s = .next t) :
    (s.fireCmd = true ∧ legalTag s.inputNow.cmdKind = true ∧ t = endCycle s (clearErrByHost (latchCmd s.portCmd s))) ∨
    (s.fireCmd = true ∧ legalTag s.inputNow.cmdKind = false ∧ t = endCycle s (takeIllegalCommand s)) ∨
    (s.fireCmd = false ∧ s.fireOut = true ∧ t = endCycle s (clearErrByHost (transferEdge s))) ∨
    (s.fireCmd = false ∧ s.fireOut = false ∧ t = endCycle s (clearErrByHost s)) := by
  by_cases hp : s.phase = .idle
  · cases hc : s.fireCmd with
    | true =>
      cases hk : legalTag s.inputNow.cmdKind with
      | true => exact .inl ⟨rfl, rfl, step_accept hc hk h⟩
      | false => exact .inr (.inl ⟨rfl, rfl, step_illegal hc hk h⟩)
    | false => exact .inr (.inr (.inr ⟨rfl, fireOut_of_idle hp, step_quiet hr hp hc h⟩))
  · have ht := step_busy hr hp h
    cases hf : s.fireOut with
    | true => exact .inr (.inr (.inl ⟨fireCmd_of_busy hp, rfl, by simpa [hf] using ht⟩))
    | false => exact .inr (.inr (.inr ⟨fireCmd_of_busy hp, rfl, by simpa [hf] using ht⟩))

/-! ### What an output transfer can change -/

theorem transferEdge_hold_changes {s : State} (h : (transferEdge s).hold ≠ s.hold) :
    s.nib = false ∧ (s.phase = .opc ∨ s.phase = .pno ∨ s.phase = .data ∨ s.phase = .csum) := by
  rcases transferEdge_cases s with ⟨-, he⟩ | ⟨-, he⟩ | ⟨hp, hn, -⟩ | ⟨-, -, he⟩ | ⟨-, he⟩
  case inr.inr.inl => exact ⟨hn, hp⟩
  all_goals simp [he] at h

theorem transferEdge_csum_changes {s : State} (h : (transferEdge s).csum ≠ s.csum) :
    s.nib = false ∧ (s.phase = .opc ∨ s.phase = .pno ∨ s.phase = .data) := by
  rcases transferEdge_cases s with ⟨-, he⟩ | ⟨-, he⟩ | ⟨hp, hn, he⟩ | ⟨-, -, he⟩ | ⟨-, he⟩
  case inr.inr.inl =>
    have hne : s.phase ≠ .csum := fun hc => h (by simp [he, hc])
    simpa [hn, hne] using hp
  all_goals simp [he] at h

theorem transferEdge_remaining_changes {s : State} (h : (transferEdge s).remaining ≠ s.remaining) :
    s.nib = false ∧ s.phase = .data := by
  rcases transferEdge_cases s with ⟨-, he⟩ | ⟨-, he⟩ | ⟨-, hn, he⟩ | ⟨-, -, he⟩ | ⟨-, he⟩
  case inr.inr.inl => exact ⟨hn, by_contra fun hne => h (by simp [he, hne])⟩
  all_goals simp [he] at h

/-! ### What a step without reset can change (R30) -/

section
variable {s t : State} (hr : s.inputNow.rst = false) (h : step s = .next t)
include hr h

theorem step_taken (hc : s.fireCmd = false) : t.taken = if s.fireIn then s.taken ++ [s.inputNow.dinData] else s.taken := by
  rcases step_run_cases hr h with ⟨hc', -⟩ | ⟨hc', -⟩ | ⟨-, -, rfl⟩ | ⟨-, -, rfl⟩
  · simp [hc] at hc'
  · simp [hc] at hc'
  · simp
  · simp

theorem step_kind_changes (hk : t.kind ≠ s.kind ∨ t.pageNo ≠ s.pageNo) :
    s.fireCmd = true ∧ legalTag s.inputNow.cmdKind = true := by
  rcases step_run_cases hr h with ⟨hc, hl, -⟩ | ⟨-, -, rfl⟩ | ⟨-, -, rfl⟩ | ⟨-, -, rfl⟩
  · exact ⟨hc, hl⟩
  all_goals simp at hk

theorem step_hold_changes (hh : t.hold ≠ s.hold) :
    s.fireOut = true ∧ s.nib = false ∧ (s.phase = .opc ∨ s.phase = .pno ∨ s.phase = .data ∨ s.phase = .csum) := by
  rcases step_run_cases hr h with ⟨-, -, rfl⟩ | ⟨-, -, rfl⟩ | ⟨-, hf, rfl⟩ | ⟨-, -, rfl⟩
  case inr.inr.inl => exact ⟨hf, transferEdge_hold_changes hh⟩
  all_goals simp at hh

theorem step_csum_changes (hx : t.csum ≠ s.csum) :
    s.fireCmd = true ∨ s.fireOut = true ∧ s.nib = false ∧ (s.phase = .opc ∨ s.phase = .pno ∨ s.phase = .data) := by
  rcases step_run_cases hr h with ⟨hc, -⟩ | ⟨hc, -⟩ | ⟨-, hf, rfl⟩ | ⟨-, -, rfl⟩
  · exact .inl hc
  · exact .inl hc
  · exact .inr ⟨hf, transferEdge_csum_changes hx⟩
  · simp at hx

theorem step_remaining_changes (hx : t.remaining ≠ s.remaining) : s.fireCmd = true ∨ s.fireIn = true := by
  rcases step_run_cases hr h with ⟨hc, -⟩ | ⟨hc, -⟩ | ⟨-, hf, rfl⟩ | ⟨-, -, rfl⟩
  · exact .inl hc
  · exact .inl hc
  · obtain ⟨hn, hp⟩ := transferEdge_remaining_changes hx
    exact .inr (fireIn_of_fireOut hf hp hn)
  · simp at hx

end

/-- An accept begins the record of the taken bytes again (log entry 8). -/
theorem step_accept_taken {s t : State} (hc : s.fireCmd = true) (hk : legalTag s.inputNow.cmdKind = true)
    (h : step s = .next t) : t.taken = [] := by
  rw [step_accept hc hk h]
  simp [fireIn_of_fireCmd hc]

@[simp] theorem acceptCmd_lenW (pc : PortCmd) (s : State) : (acceptCmd pc s).lenW = s.lenW := by
  unfold acceptCmd; split <;> rfl

@[simp] theorem registerEdge_lenW (offer : Option PortCmd) (s : State) : (registerEdge offer s).lenW = s.lenW := by
  cases hc : s.cmdReady with
  | true => cases offer <;> simp [registerEdge_no_offer hc, registerEdge_accept hc]
  | false => cases hf : s.fireOut <;> simp [registerEdge_busy hc, hf]

/-- R8: no step changes the parameter. -/
theorem step_lenW {s t : State} (h : step s = .next t) : t.lenW = s.lenW := by
  rcases step_cases h with ⟨-, -, rfl⟩ | ⟨-, -, -, -, rfl⟩ <;> simp

/-- Settles O42: each conjunct is the lemma above about what changes that register or record. -/
theorem onlyTransfersMoveData : Obligations.OnlyTransfersMoveData := by
  intro s t hr h
  simp only [← legalTag_iff]
  refine ⟨?sent, step_taken hr h, fun ⟨hc, hk⟩ => step_accept_taken hc hk h, step_kind_changes hr h,
    step_hold_changes hr h, step_csum_changes hr h, step_remaining_changes hr h, step_lenW h⟩
  rw [step_sent h, State.sends]
  cases s.fireOut <;> simp [State.outByte, State.outputs]

end Sys2Proof.Machine
end

section
/-! The flag `err` (R35, R203): what an edge writes into it, and that no other field of the next state depends on it. -/

namespace Sys2Proof.Machine

/-- The offer is accepted in this cycle and has a reserved tag (R201): `set_illegal` of R203. -/
def setsIllegal (offer : Option PortCmd) (s : State) : Bool :=
  s.cmdReady && offer.any fun pc => !legalTag pc.kind

/-- R203: the update of `err` by a cycle. -/
theorem cycle_err {offer : Option PortCmd} {s t : State} (h : cycle offer s = .next t) :
    t.err = errNext s.inputNow.rst (setsIllegal offer s) s.inputNow.errClr s.err := by
  rcases cycle_cases h with ⟨hr, -, rfl⟩ | ⟨hr, -, -, -, rfl⟩
  · simp [hr, errNext]
  · rw [endCycle_err, hr]
    cases hc : s.cmdReady with
    | false => cases hf : s.fireOut <;> simp [registerEdge_busy hc, setsIllegal, hc, hf]
    | true =>
      cases offer with
      | none => simp [registerEdge_no_offer hc, setsIllegal]
      | some pc =>
        cases hk : legalTag pc.kind <;>
          simp [registerEdge_accept hc, acceptCmd_legal, acceptCmd_reserved, setsIllegal, hc, hk]

theorem fireCmd_eq (s : State) : s.fireCmd = (s.cmdReady && s.inputNow.cmdValid) := by
  unfold State.fireCmd State.cmdReady
  cases s.inputNow.rst <;> simp [Bool.and_comm]

theorem setsIllegal_offerNow (s : State) :
    setsIllegal (offerNow s) s = (s.fireCmd && !legalTag s.inputNow.cmdKind) := by
  rw [fireCmd_eq]
  unfold setsIllegal offerNow
  cases s.inputNow.cmdValid <;> simp [State.portCmd]

/-- R203: the update of `err` by a step. -/
theorem step_err {s t : State} (h : step s = .next t) :
    t.err = errNext s.inputNow.rst (s.fireCmd && !legalTag s.inputNow.cmdKind) s.inputNow.errClr s.err := by
  rw [cycle_err (step_eq_cycle s ▸ h), setsIllegal_offerNow]

/-- Every change of the flag by R203 is a set by IllegalCommand or a clear by the host. -/
theorem errNext_changes {rst ill clr err : Bool} (h : errNext rst ill clr err ≠ err) :
    (errNext rst ill clr err = true ∧ ill = true) ∨ (errNext rst ill clr err = false ∧ (clr = true ∨ rst = true)) := by
  revert h
  cases rst <;> cases ill <;> cases clr <;> simp [errNext]

/-- A legal command never sets the flag. -/
theorem exec_err {i : Instr} {s t : State} (h : exec i s = .next t) :
    t.err = errNext s.inputNow.rst false s.inputNow.errClr s.err := by
  rw [exec_eq_cycle] at h
  rw [cycle_err h]
  simp [setsIllegal, portOf_legal]

/-! ### The next state as a function of the flag -/

/-- `s` with another value in the flag. -/
def State.withErr (s : State) (e : Bool) : State := { s with err := e }

theorem headerEdge_withErr (s : State) (e : Bool) : headerEdge (s.withErr e) = (headerEdge s).withErr e := by
  unfold headerEdge
  rw [apply_ite (State.withErr · e)]
  rfl

theorem nibbleEdge_withErr (s : State) (e : Bool) : nibbleEdge (s.withErr e) = (nibbleEdge s).withErr e := by
  cases h : s.nib <;> simp [nibbleEdge, State.withErr, h] <;> rfl

theorem transferEdge_withErr (s : State) (e : Bool) : transferEdge (s.withErr e) = (transferEdge s).withErr e := by
  have hp : (s.withErr e).phase = s.phase := rfl
  unfold transferEdge
  rw [hp]
  cases s.phase <;> simp only [headerEdge_withErr, nibbleEdge_withErr]
  rfl

/-- The registers after an edge, but for the flag itself, do not depend on the flag. -/
theorem registerEdge_withErr (offer : Option PortCmd) (s : State) (e x : Bool) :
    (registerEdge offer (s.withErr e)).withErr x = (registerEdge offer s).withErr x := by
  cases hc : s.cmdReady with
  | false =>
    rw [registerEdge_busy hc, registerEdge_busy (s := s.withErr e) hc]
    have hf : (s.withErr e).fireOut = s.fireOut := rfl
    rw [hf]
    cases s.fireOut
    · rfl
    · simp only [transferEdge_withErr]
      rfl
  | true =>
    cases offer with
    | none => rw [registerEdge_no_offer hc, registerEdge_no_offer (s := s.withErr e) hc]; rfl
    | some pc =>
      rw [registerEdge_accept hc, registerEdge_accept (s := s.withErr e) hc]
      cases hk : legalTag pc.kind with
      | true => rw [acceptCmd_legal hk, acceptCmd_legal hk]; rfl
      | false => rw [acceptCmd_reserved hk, acceptCmd_reserved hk]; rfl

/-- Under another flag a cycle answers as before, and its next state differs at most in the flag. -/
theorem cycle_withErr {offer : Option PortCmd} {s t : State} (h : cycle offer s = .next t) (e : Bool) :
    ∃ t', cycle offer (s.withErr e) = .next t' ∧ t'.withErr t.err = t := by
  rcases cycle_cases h with ⟨hr, hd, rfl⟩ | ⟨hr, hu, hd, hp, rfl⟩
  · exact ⟨_, cycle_reset (s := s.withErr e) hr hd offer, rfl⟩
  · have hrun : s.running = true := by simp [State.running, hr, hu, hd]
    refine ⟨_, cycle_run (s := s.withErr e) hrun hp, ?_⟩
    exact congrArg (endCycle s) (registerEdge_withErr offer s e (registerEdge offer s).err)

/-- Settles O46: what writes the flag is R203's equation, and the flag commutes with every edge. -/
theorem errIsOnlyAFlag : Obligations.ErrIsOnlyAFlag := by
  refine ⟨fun s t h hne => ?changes, fun i s t h hr hc => ?exec, fun s t e h => ?unread⟩
  case changes =>
    rw [step_err h] at hne ⊢
    refine (errNext_changes hne).imp_left fun ⟨ht, hill⟩ => ?_
    simp only [Bool.and_eq_true, Bool.not_eq_true', legalTag_eq_false_iff] at hill
    exact ⟨ht, hill⟩
  case exec => simp [exec_err h, hr, hc, errNext]
  case unread =>
    rw [step_eq_cycle] at h
    obtain ⟨t', ht', he⟩ := cycle_withErr h e
    exact ⟨t', (step_eq_cycle (s.withErr e)).trans ht', he⟩

end Sys2Proof.Machine
end

section
/-! Opcodes and tags (R21, R71), and the invariants of an idle block (R157). -/

namespace Sys2Proof

/-- R71: the five bits above the tag are those of 0x10, and the sum does not reach into them. -/
theorem opcodeOfTag_bits (k : BitVec 3) :
    (Machine.opcodeOfTag k).extractLsb' 3 5 = 0b00010 ∧ (Machine.opcodeOfTag k).extractLsb' 0 3 = k := by
  revert k; decide

/-- R71, R82: a reserved tag is rejected by name, whatever the other port fields are. -/
theorem decodePort_reserved {w : Nat} {pc : PortCmd} {d : List Byte} (h : 5 ≤ pc.kind.toNat) :
    decodePort w pc d = .error (.reservedTag pc.kind) := by
  have hne : ∀ k : BitVec 3, k.toNat < 5 → pc.kind ≠ k := by
    rintro k hk rfl
    omega
  rw [decodePort, if_neg (hne 0 (by decide)), if_neg (hne 1 (by decide)), if_neg (hne 2 (by decide)),
    if_neg (hne 3 (by decide)), if_neg (hne 4 (by decide))]

/-- Settles O1: the opcode is `opcodeOfTag` of the tag, so its bits are those of that sum. -/
theorem tagsAndOpcodes : Obligations.TagsAndOpcodes := by
  refine ⟨⟨rfl, rfl⟩, fun p d => ⟨rfl, rfl⟩, fun p => ⟨rfl, rfl⟩, fun p => ⟨rfl, rfl⟩, ⟨rfl, rfl⟩, fun i => ?opcode,
    fun w pc d h => decodePort_reserved h⟩
  rw [← Machine.opcodeOfTag_tag]
  exact ⟨rfl, opcodeOfTag_bits (tag i)⟩

end Sys2Proof

namespace Sys2Proof.Machine

/-- In `IDLE` R157 asks for nothing but `hidx`, `nib` and the width of `remaining`. -/
theorem seqInv_of_idle {s : State} (hp : s.phase = .idle) (hh : s.hidx = 0) (hn : s.nib = false) (hw : 1 ≤ s.lenW)
    (hrem : s.remaining < 2 ^ s.lenW) : SeqInv s := by
  constructor <;> simp [hp, hh, hn, hw, hrem]

/-- Settles O50: the reset state is an idle state, and its `remaining` is 0. -/
theorem resetStateMeetsInv : Obligations.ResetStateMeetsInv :=
  seqInv_of_idle rfl rfl rfl (by decide) (by decide)

end Sys2Proof.Machine
end

section
/-! Noninterference (R31, R33, R72, R159): two alike states show the same ports, and every cycle keeps them alike. The one
invariant that this needs is that a block in `PNO` has a command with a `page_no`, so that its `page_no` is the same in both. -/

namespace Sys2Proof.Machine

/-- R157, 5, as the one premise about a state: in `PNO` the command in progress has a `page_no`. -/
def State.PnoHasPageNo (s : State) : Prop := s.phase = .pno → hasPageNo s.kind = true

theorem pnoHasPageNo_of_inv {s : State} (h : SeqInv s) : s.PnoHasPageNo := by
  intro hp
  rcases h.pno_kind hp with hk | hk | hk <;> simp [hasPageNo, hk]

/-- R153: only an opcode of a command with a `page_no` is followed by `PNO`. -/
theorem nextPhase_eq_pno {ph : Phase} {k : BitVec 3} {r : Nat} (h : nextPhase ph k r = .pno) : hasPageNo k = true := by
  cases ph with
  | opc => by_contra hk; simp [nextPhase, hk] at h
  | pno | data => simp only [nextPhase] at h; split at h <;> cases h
  | idle | hdr | csum | ftr | unreachable => cases h

theorem transferEdge_pno {s : State} (hs : s.PnoHasPageNo) : (transferEdge s).PnoHasPageNo := by
  unfold State.PnoHasPageNo
  rw [transferEdge_kind]
  rcases transferEdge_cases s with ⟨-, he⟩ | ⟨hp, he⟩ | ⟨-, -, he⟩ | ⟨-, -, he⟩ | ⟨-, he⟩ <;> rw [he]
  · exact hs
  · rw [headerEdge_phase]
    split <;> simp [hp]
  · exact hs
  · exact nextPhase_eq_pno
  · simp

theorem step_pno {s t : State} (hs : s.PnoHasPageNo) (h : step s = .next t) : t.PnoHasPageNo := by
  cases hr : s.inputNow.rst with
  | true => simp [step_reset_next hr h, State.PnoHasPageNo]
  | false =>
    rcases step_run_cases hr h with ⟨-, -, rfl⟩ | ⟨-, -, rfl⟩ | ⟨-, -, rfl⟩ | ⟨-, -, rfl⟩
    · simp [State.PnoHasPageNo]
    · exact hs
    · exact transferEdge_pno hs
    · exact hs

/-! ### What two alike states show -/

section
variable {s t : State} (h : Alike s t)
include h

theorem Alike.inputNow_eq : t.inputNow = s.inputNow := by
  simp only [State.inputNow, h.inputs, h.dinOffer]

theorem Alike.cmdReady_eq : t.cmdReady = s.cmdReady := by
  simp only [State.cmdReady, h.inputNow_eq, h.phase]

theorem Alike.dinReady_eq : t.dinReady = s.dinReady := by
  simp only [State.dinReady, h.inputNow_eq, h.phase, h.nib]

theorem Alike.doutValid_eq : t.doutValid = s.doutValid := by
  simp only [State.doutValid, State.offersByte, h.inputNow_eq, h.phase, h.nib]

theorem Alike.doutLast_eq : t.doutLast = s.doutLast := by
  simp only [State.doutLast, h.inputNow_eq, h.phase]

theorem Alike.busy_eq : t.busy = s.busy := by
  simp only [State.busy, h.phase]

theorem Alike.fireOut_eq : t.fireOut = s.fireOut := by
  simp only [State.fireOut, h.inputNow_eq, h.doutValid_eq]

theorem Alike.fireIn_eq : t.fireIn = s.fireIn := by
  simp only [State.fireIn, h.inputNow_eq, h.dinReady_eq]

theorem Alike.offerNow_eq : offerNow t = offerNow s := by
  simp only [offerNow, State.portCmd, h.inputNow_eq]

theorem Alike.dinOwed_eq : t.dinOwed = s.dinOwed := by
  simp only [State.dinOwed, h.inputNow_eq, h.phase, h.dinOffer]

theorem Alike.dinStable_eq : t.dinStable = s.dinStable := by
  simp only [State.dinStable, h.inputNow_eq, h.dinOwed_eq]

theorem Alike.nextDinOffer_eq : t.nextDinOffer = s.nextDinOffer := by
  simp only [State.nextDinOffer, h.inputNow_eq, h.dinOwed_eq, h.fireIn_eq]

/-- R141: what the multiplexer reads is the same in both states, in every phase in which it is read. -/
theorem Alike.cur_eq (hs : s.PnoHasPageNo) (hp : s.phase = .opc ∨ s.phase = .pno ∨ s.phase = .data ∨ s.phase = .csum) :
    t.cur = s.cur := by
  rcases hp with hp | hp | hp | hp <;> simp only [State.cur, h.phase, hp]
  · rw [h.kind (by simp [hp])]
  · exact h.pageNo (by simp [hp]) (hs hp)
  · rw [h.inputNow_eq]
  · exact h.csum (by simp [hp])

theorem Alike.nibbleByte_eq (hs : s.PnoHasPageNo)
    (hp : s.phase = .opc ∨ s.phase = .pno ∨ s.phase = .data ∨ s.phase = .csum) : t.nibbleByte = s.nibbleByte := by
  unfold State.nibbleByte
  rw [h.nib, h.cur_eq hs hp]
  cases hn : s.nib with
  | true => simp [h.hold hn]
  | false => rfl

/-- R144: a byte on offer is the same in both states. -/
theorem Alike.doutData_eq (hs : s.PnoHasPageNo) (hv : s.doutValid = true) : t.doutData = s.doutData := by
  have ho : s.offersByte = true := by
    simp only [State.doutValid, Bool.and_eq_true] at hv
    exact hv.2
  unfold State.doutData
  rw [h.doutValid_eq, hv, h.phase]
  cases hp : s.phase with
  | idle | unreachable => simp [State.offersByte, hp] at ho
  | hdr => simp [h.hidx]
  | opc | pno | data | csum => simpa using h.nibbleByte_eq hs (by simp [hp])
  | ftr => rfl

theorem Alike.shows_samePorts (hs : s.PnoHasPageNo) : samePorts s t :=
  ⟨h.cmdReady_eq, h.dinReady_eq, h.doutValid_eq, h.doutLast_eq, h.busy_eq, h.doutData_eq hs⟩

theorem Alike.sends_eq (hs : s.PnoHasPageNo) : t.sends = s.sends := by
  unfold State.sends State.outByte
  rw [h.fireOut_eq, h.doutLast_eq]
  cases hf : s.fireOut with
  | false => rfl
  | true =>
    obtain ⟨hr, ho, -⟩ := (fireOut_iff s).1 hf
    rw [h.doutData_eq hs (by simp [State.doutValid, hr, ho])]

/-! ### Every edge keeps two states alike -/

theorem Alike.after_clearErrByHost : Alike (clearErrByHost s) (clearErrByHost t) := { h with }

theorem Alike.after_takeIllegalCommand : Alike (takeIllegalCommand s) (takeIllegalCommand t) := { h with }

/-- R150: an accept writes every register that may have differed in `IDLE`. -/
theorem Alike.after_latchCmd (pc : PortCmd) : Alike (latchCmd pc s) (latchCmd pc t) := by
  constructor <;> simp [h.lenW, h.inputs, h.dinOffer]

theorem Alike.after_acceptCmd (pc : PortCmd) : Alike (acceptCmd pc s) (acceptCmd pc t) := by
  cases hk : legalTag pc.kind with
  | true => simpa only [acceptCmd_legal hk] using (h.after_latchCmd pc).after_clearErrByHost
  | false => simpa only [acceptCmd_reserved hk] using h.after_takeIllegalCommand

theorem Alike.after_headerEdge (hp : s.phase = .hdr) : Alike (headerEdge s) (headerEdge t) := by
  have hb : s.phase ≠ .idle := by simp [hp]
  unfold headerEdge
  rw [h.hidx]
  split
  · exact { h with
      phase := rfl, hidx := rfl, kind := fun _ => h.kind hb, pageNo := fun _ => h.pageNo hb
      remaining := fun _ => h.remaining hb, csum := fun _ => h.csum hb }
  · exact { h with hidx := rfl }

/-- R152: a high nibble writes `hold`, and what it writes comes from `cur`. -/
theorem Alike.after_highNibbleEdge (hs : s.PnoHasPageNo)
    (hp : s.phase = .opc ∨ s.phase = .pno ∨ s.phase = .data ∨ s.phase = .csum) :
    Alike (highNibbleEdge s) (highNibbleEdge t) :=
  { h with
    nib := rfl
    hold := fun _ => h.cur_eq hs hp
    csum := fun hb => by simp [h.phase, h.csum hb, h.cur_eq hs hp]
    remaining := fun hb => by simp [h.phase, h.remaining hb, h.lenW] }

/-- R153: the phase after a low nibble is a function of registers that the two states share. -/
theorem Alike.after_lowNibbleEdge (hb : s.phase ≠ .idle) : Alike (lowNibbleEdge s) (lowNibbleEdge t) :=
  { h with
    phase := by simp [h.phase, h.kind hb, h.remaining hb]
    nib := rfl
    hold := by simp
    kind := fun _ => h.kind hb
    pageNo := fun _ => h.pageNo hb
    remaining := fun _ => h.remaining hb
    csum := fun _ => h.csum hb }

/-- R154: back in `IDLE` nothing is asked of the latched command. -/
theorem Alike.after_footerEdge : Alike (footerEdge s) (footerEdge t) := by
  constructor <;> simp [h.hidx, h.nib, h.lenW, h.inputs, h.dinOffer]
  exact h.hold

theorem Alike.after_transferEdge (hs : s.PnoHasPageNo) : Alike (transferEdge s) (transferEdge t) := by
  rcases transferEdge_cases s with ⟨hp | hp, he⟩ | ⟨hp, he⟩ | ⟨hp, hn, he⟩ | ⟨hp, hn, he⟩ | ⟨hp, he⟩ <;> rw [he]
  · simpa [transferEdge, h.phase, hp] using h
  · simpa [transferEdge, h.phase, hp] using h
  · rw [transferEdge_hdr (h.phase.trans hp)]
    exact h.after_headerEdge hp
  · rw [transferEdge_nibble (h.phase ▸ hp), h.nib, hn]
    exact h.after_highNibbleEdge hs hp
  · rw [transferEdge_nibble (h.phase ▸ hp), h.nib, hn]
    exact h.after_lowNibbleEdge (by rcases hp with hp | hp | hp | hp <;> simp [hp])
  · rw [transferEdge_ftr (h.phase.trans hp)]
    exact h.after_footerEdge

theorem Alike.after_registerEdge (hs : s.PnoHasPageNo) (offer : Option PortCmd) :
    Alike (registerEdge offer s) (registerEdge offer t) := by
  cases hc : s.cmdReady with
  | true =>
    have hct := h.cmdReady_eq.trans hc
    cases offer with
    | none => simpa only [registerEdge_no_offer, hc, hct] using h.after_clearErrByHost
    | some pc => simpa only [registerEdge_accept, hc, hct] using h.after_acceptCmd pc
  | false =>
    rw [registerEdge_busy hc, registerEdge_busy (h.cmdReady_eq.trans hc), h.fireOut_eq]
    split
    · exact (h.after_transferEdge hs).after_clearErrByHost
    · exact h.after_clearErrByHost

/-- R31: after a reset edge the free registers may differ, and no phase but `IDLE` would read them. -/
theorem Alike.after_resetRegisters : Alike (resetRegisters s) (resetRegisters t) := by
  constructor <;> simp [h.lenW, h.inputs, h.dinOffer]

theorem Alike.after_endCycle {u v : State} (hr : Alike u v) : Alike (endCycle s u) (endCycle t v) :=
  { hr with
    inputs := by simp [h.inputs]
    dinOffer := h.nextDinOffer_eq }

theorem Alike.running_eq : t.running = s.running := by
  simp only [State.running, h.inputNow_eq, h.phase, h.dinStable_eq]

theorem Alike.setsIllegal_eq (offer : Option PortCmd) : setsIllegal offer t = setsIllegal offer s := by
  simp only [setsIllegal, h.cmdReady_eq]

/-- A cycle keeps two states alike, whatever is on the command port. -/
theorem Alike.cycle_next (hs : s.PnoHasPageNo) {offer : Option PortCmd} {s' : State} (hc : cycle offer s = .next s') :
    ∃ t', cycle offer t = .next t' ∧ Alike s' t' := by
  rcases cycle_cases hc with ⟨hr, hd, rfl⟩ | ⟨hr, hu, hd, hp, rfl⟩
  · exact ⟨_, cycle_reset (h.inputNow_eq ▸ hr) (h.dinStable_eq.trans hd) offer, h.after_endCycle h.after_resetRegisters⟩
  · have hrun : s.running = true := by simp [State.running, hr, hu, hd]
    rw [← h.cmdReady_eq, ← h.lenW] at hp
    exact ⟨_, cycle_run (h.running_eq.trans hrun) hp, h.after_endCycle (h.after_registerEdge hs offer)⟩

theorem Alike.step_next (hs : s.PnoHasPageNo) {s' : State} (hc : step s = .next s') :
    ∃ t', step t = .next t' ∧ Alike s' t' ∧ (t.err = s.err → t'.err = s'.err) := by
  rw [step_eq_cycle] at hc
  obtain ⟨t', ht, ha⟩ := h.cycle_next hs hc
  refine ⟨t', by rw [step_eq_cycle, h.offerNow_eq, ht], ha, fun he => ?_⟩
  rw [cycle_err hc, cycle_err ht, h.inputNow_eq, h.setsIllegal_eq, he]

end

/-- The simulation along a run: two alike states stay alike under the same schedule and send the same bytes. -/
theorem Alike.run_next {n : Nat} {s t s' : State} (h : Alike s t) (hs : s.PnoHasPageNo) (hr : runCycles n s = .next s') :
    ∃ t', runCycles n t = .next t' ∧ Alike s' t' ∧ collect State.sends n t = collect State.sends n s ∧
      (t.err = s.err → t'.err = s'.err) := by
  induction n generalizing s t with
  | zero =>
    simp only [runCycles_zero, Host.Outcome.next.injEq] at hr
    subst hr
    exact ⟨t, rfl, h, rfl, id⟩
  | succ n ih =>
    obtain ⟨u, hu, hr⟩ := runCycles_succ_next hr
    obtain ⟨v, hv, huv, hev⟩ := h.step_next hs hu
    obtain ⟨t', ht, ha, hsends, het⟩ := ih huv (step_pno hs hu) hr
    refine ⟨t', (runCycles_succ hv n).trans ht, ha, ?_, fun he => het (hev he)⟩
    rw [collect_succ hv, collect_succ hu, hsends, h.sends_eq hs]

/-- Settles O59: the simulation `Alike.run_next`, and that alike states show the same ports. -/
theorem noOutputDependsOnUnspecified : Obligations.NoOutputDependsOnUnspecified := by
  intro n s t s' hinv h hr
  have hs := pnoHasPageNo_of_inv hinv
  obtain ⟨t', ht, ha, hsends, herr⟩ := h.run_next hs hr
  have hs' : s'.PnoHasPageNo := run_keeps (fun _ _ => step_pno) hs hr
  exact ⟨t', ht, ha, ha.shows_samePorts hs', hsends, fun he => ⟨herr he, herr he⟩⟩

end Sys2Proof.Machine
end

section
/-! When port values are seen (R62): two cycles that begin in one state, with other values on ports that their transfers do not
read, end with the same registers. -/

namespace Sys2Proof.Machine

@[simp] theorem withPorts_inputNow (s : State) (b : Inputs) : (s.withPorts b).inputNow = b := rfl
@[simp] theorem withPorts_phase (s : State) (b : Inputs) : (s.withPorts b).phase = s.phase := rfl
@[simp] theorem withPorts_nib (s : State) (b : Inputs) : (s.withPorts b).nib = s.nib := rfl
@[simp] theorem withPorts_withPorts (s : State) (a b : Inputs) : (s.withPorts a).withPorts b = s.withPorts b := rfl

/-- The port values `b` are as good in this cycle as those that are on the ports, but for the command port: what is sampled in
every cycle is the same, and so is `din_data` if the cycle takes it. -/
structure SampledAlike (s : State) (b : Inputs) : Prop where
  rst : b.rst = s.inputNow.rst
  dinValid : b.dinValid = s.inputNow.dinValid
  doutReady : b.doutReady = s.inputNow.doutReady
  errClr : b.errClr = s.inputNow.errClr
  dinData : s.fireIn = true → b.dinData = s.inputNow.dinData

section
variable {s : State} {b : Inputs} (h : SampledAlike s b)
include h

/-! ### The transfers of the two cycles -/

theorem SampledAlike.cmdReady_eq : (s.withPorts b).cmdReady = s.cmdReady := by
  unfold State.cmdReady
  rw [withPorts_inputNow, h.rst]
  rfl

theorem SampledAlike.dinReady_eq : (s.withPorts b).dinReady = s.dinReady := by
  unfold State.dinReady
  rw [withPorts_inputNow, h.rst, h.doutReady]
  rfl

theorem SampledAlike.doutValid_eq : (s.withPorts b).doutValid = s.doutValid := by
  unfold State.doutValid State.offersByte
  rw [withPorts_inputNow, h.rst, h.dinValid]
  rfl

theorem SampledAlike.fireIn_eq : (s.withPorts b).fireIn = s.fireIn := by
  simp only [State.fireIn, withPorts_inputNow, h.rst, h.dinValid, h.dinReady_eq]

theorem SampledAlike.fireOut_eq : (s.withPorts b).fireOut = s.fireOut := by
  simp only [State.fireOut, withPorts_inputNow, h.rst, h.doutReady, h.doutValid_eq]

/-- R141: the multiplexer reads a port in `DATA` only, where the transfer of a high nibble takes the byte (R152). -/
theorem SampledAlike.cur_eq (hf : s.fireOut = true) (hn : s.nib = false) : (s.withPorts b).cur = s.cur := by
  unfold State.cur
  rw [withPorts_phase, withPorts_inputNow]
  cases hp : s.phase with
  | data => exact h.dinData (fireIn_of_fireOut hf hp hn)
  | idle | hdr | opc | pno | csum | ftr | unreachable => rfl

theorem SampledAlike.nibbleByte_eq (hf : s.fireOut = true) : (s.withPorts b).nibbleByte = s.nibbleByte := by
  unfold State.nibbleByte
  rw [withPorts_nib]
  cases hn : s.nib with
  | true => rfl
  | false => rw [h.cur_eq hf hn]; rfl

/-- An output transfer sends the same byte. -/
theorem SampledAlike.outByte_eq (hf : s.fireOut = true) : (s.withPorts b).outByte = s.outByte := by
  unfold State.outByte State.doutData State.doutLast
  rw [h.doutValid_eq, h.nibbleByte_eq hf, withPorts_inputNow, h.rst]
  rfl

theorem SampledAlike.sends_eq : (s.withPorts b).sends = s.sends := by
  unfold State.sends
  rw [h.fireOut_eq]
  split
  case isTrue hf => rw [h.outByte_eq hf]
  case isFalse => rfl

/-! ### The registers after the two cycles -/

theorem SampledAlike.nibbleEdge_eq (hf : s.fireOut = true) : nibbleEdge (s.withPorts b) = (nibbleEdge s).withPorts b := by
  unfold nibbleEdge
  rw [withPorts_nib]
  cases hn : s.nib with
  | true => rfl
  | false => simp only [Bool.false_eq_true, if_false, highNibbleEdge, h.cur_eq hf hn]; rfl

/-- R151 to R154: the output transfer. -/
theorem SampledAlike.transferEdge_eq (hf : s.fireOut = true) :
    transferEdge (s.withPorts b) = (transferEdge s).withPorts b := by
  have hhdr : headerEdge (s.withPorts b) = (headerEdge s).withPorts b := by
    unfold headerEdge
    rw [apply_ite (State.withPorts · b)]
    rfl
  unfold transferEdge
  rw [withPorts_phase, hhdr, h.nibbleEdge_eq hf]
  cases s.phase <;> rfl

/-- The host's clear (R203) after any edge `u` of the cycle. -/
theorem SampledAlike.clearErrByHost_eq {u : State} (hu : u.inputNow = s.inputNow) :
    clearErrByHost (u.withPorts b) = (clearErrByHost u).withPorts b := by
  unfold clearErrByHost
  rw [withPorts_inputNow, h.errClr, hu]
  rfl

/-- The accept of one command (R150, R201). -/
theorem SampledAlike.acceptCmd_eq (pc : PortCmd) : acceptCmd pc (s.withPorts b) = (acceptCmd pc s).withPorts b := by
  cases hk : legalTag pc.kind with
  | true =>
    rw [acceptCmd_legal hk, acceptCmd_legal hk]
    exact h.clearErrByHost_eq (latchCmd_inputNow pc s)
  | false =>
    rw [acceptCmd_reserved hk, acceptCmd_reserved hk, takeIllegalCommand, withPorts_inputNow, h.errClr]
    rfl

theorem SampledAlike.registerEdge_eq (offer : Option PortCmd) :
    registerEdge offer (s.withPorts b) = (registerEdge offer s).withPorts b := by
  have hc := h.cmdReady_eq
  cases hr : s.cmdReady with
  | true =>
    rw [hr] at hc
    cases offer with
    | none => rw [registerEdge_no_offer hc, registerEdge_no_offer hr, h.clearErrByHost_eq rfl]
    | some pc => rw [registerEdge_accept hc, registerEdge_accept hr, h.acceptCmd_eq]
  | false =>
    rw [hr] at hc
    rw [registerEdge_busy hc, registerEdge_busy hr, h.fireOut_eq]
    cases hf : s.fireOut with
    | true =>
      rw [if_pos rfl, if_pos rfl, h.transferEdge_eq hf, h.clearErrByHost_eq (transferEdge_inputNow s)]
    | false => exact h.clearErrByHost_eq rfl

/-- With the same command on the port too, two cycles that answer a next state leave the same registers. -/
theorem SampledAlike.step_registers (ho : offerNow (s.withPorts b) = offerNow s) {t t' : State} (ht : step s = .next t)
    (ht' : step (s.withPorts b) = .next t') : sameRegisters t t' ∧ t'.err = t.err := by
  rcases step_cases ht with ⟨hr, -, rfl⟩ | ⟨hr, -, -, -, rfl⟩
  · rw [step_reset_next (s := s.withPorts b) (h.rst.trans hr) ht']
    exact ⟨⟨rfl, rfl, rfl, rfl, rfl, rfl, rfl, rfl⟩, rfl⟩
  · rcases step_cases ht' with ⟨hr', -⟩ | ⟨-, -, -, -, rfl⟩
    · rw [withPorts_inputNow, h.rst, hr] at hr'
      cases hr'
    · rw [ho, h.registerEdge_eq]
      exact ⟨⟨rfl, rfl, rfl, rfl, rfl, rfl, rfl, rfl⟩, rfl⟩

end

/-! ### The command port and the input stream -/

/-- Without an accept a step is the cycle with no command on the port (R140, R62). -/
theorem step_no_accept {s : State} (h : s.fireCmd = false) : step s = cycle none s := by
  rw [step_eq_cycle, offerNow]
  cases hv : s.inputNow.cmdValid with
  | false => rfl
  | true =>
    have hc : s.cmdReady = false := by simpa [fireCmd_eq, hv] using h
    simp [cycle, hc, registerEdge_busy]

/-- Values that differ on the command port only are the same values with another command put on the port. -/
theorem sameButCommand_exists {a b : Inputs} (h : sameButCommand a b) :
    ∃ v k p l, b = { a with cmdValid := v, cmdKind := k, cmdPageNo := p, cmdLen := l } := by
  obtain ⟨hr, hv, hd, ho, he⟩ := h
  exact ⟨b.cmdValid, b.cmdKind, b.cmdPageNo, b.cmdLen, by simp [hr, hv, hd, ho, he]⟩

/-- A cycle without a command has one outcome for all values of the command port. -/
theorem cycle_none_sameButCommand (s : State) {a b : Inputs} (h : sameButCommand a b) :
    cycle none (s.withPorts a) = cycle none (s.withPorts b) := by
  obtain ⟨v, k, p, l, rfl⟩ := sameButCommand_exists h
  have hs : SampledAlike (s.withPorts a) { a with cmdValid := v, cmdKind := k, cmdPageNo := p, cmdLen := l } :=
    ⟨rfl, rfl, rfl, rfl, fun _ => rfl⟩
  have hedge := hs.registerEdge_eq none
  rw [withPorts_withPorts] at hedge
  unfold cycle
  rw [hedge]
  rfl

/-- R152: an input transfer keeps the byte in `hold`. -/
theorem step_fireIn_hold {s t : State} (hf : s.fireIn = true) (h : step s = .next t) : t.hold = s.inputNow.dinData := by
  obtain ⟨hr, hp, hn, -, -⟩ := (fireIn_iff s).1 hf
  rw [step_busy hr (by simp [hp]) h, if_pos (fireOut_of_fireIn hf), transferEdge_nibble (by simp [hp])]
  simp [hn, State.cur, hp]

/-- Settles O43: `cycle_none_sameButCommand` for the command port, `SampledAlike` for `din_data`, and the two latches. -/
theorem inputsSampledAtTransfers : Obligations.InputsSampledAtTransfers := by
  refine ⟨fun s a b h ha hb => ?command, fun s a x t t' hf h h' => ?din, fun s t hc hk h => ?latch,
    fun s t hf h => step_fireIn_hold hf h⟩
  case command => rw [step_no_accept ha, step_no_accept hb, cycle_none_sameButCommand s h]
  case din =>
    have hs : SampledAlike (s.withPorts a) { a with dinData := x } := ⟨rfl, rfl, rfl, rfl, by simp [hf]⟩
    obtain ⟨hregs, herr⟩ := hs.step_registers rfl h h'
    have hf' : (s.withPorts { a with dinData := x }).fireIn = false := hs.fireIn_eq.trans hf
    exact ⟨hregs, herr, hs.sends_eq, by simp [State.takes, hf']⟩
  case latch =>
    rw [step_accept hc ((legalTag_iff _).2 hk) h]
    exact ⟨rfl, rfl, fun hw => if_pos hw⟩

end Sys2Proof.Machine
end

section
/-! The frame under way (R59, R206): in every state of a running block, what is still to be sent is a function of the registers
and of the `page_data` bytes still to be taken, and every cycle sends the first byte of it or nothing. A run between two idle
states therefore sends whole frames. -/

namespace Sys2Proof.Machine

/-! ### The frame level, from the accumulator's side -/

/-- The nibbles of the payload bytes `p` and of the checksum after them, when `c` is the checksum of what came before `p`
(R120 to R123). -/
def nibblesFrom (c : Byte) : List Byte → List Byte
  | [] => nibbles c
  | b :: p => hiNibble b :: loNibble b :: nibblesFrom (c ^^^ b) p

theorem nibblesFrom_eq (c : Byte) (p : List Byte) :
    nibblesFrom c p = p.flatMap nibbles ++ nibbles (p.foldl (fun acc b => acc ^^^ b) c) := by
  induction p generalizing c with
  | nil => rfl
  | cons b p ih => simp [nibblesFrom, ih, nibbles]

theorem nibbleStream_eq (p : List Byte) : nibbleStream p = nibblesFrom 0 p := by
  simp [nibbleStream, checksummed, checksum, nibblesFrom_eq]

/-- The output transfers of these bytes and of the footer after them (R57, R145). -/
def endFrame (body : List Byte) : List OutByte := body.map (⟨·, false⟩) ++ [⟨footerByte, true⟩]

theorem outBytes_footer (body : List Byte) : outBytes (body ++ footer) = endFrame body := by
  induction body with
  | nil => rfl
  | cons b body ih =>
    cases body with
    | nil => rfl
    | cons c body => simpa [outBytes, endFrame] using ih

theorem outBytes_frame (i : Instr) : outBytes (frame i) = endFrame (header ++ nibblesFrom 0 (encode i)) := by
  rw [frame, wrapFrame, outBytes_footer, nibbleStream_eq]

theorem legalTag_cases : ∀ k : BitVec 3, legalTag k = true → k = 0 ∨ k = 1 ∨ k = 2 ∨ k = 3 ∨ k = 4 := by decide

/-- R71, R84, R100: a legal tag and as many `page_data` bytes as the port gives are a well-formed command, with the payload that
the sequencer sends. -/
theorem exists_command {w : Nat} {pc : PortCmd} {d : List Byte} (hk : legalTag pc.kind = true)
    (hw : pc.kind = 1 → pc.len < 2 ^ w) (hd : d.length = if pc.kind = 1 then pc.len else 0) :
    ∃ c, portFits c pc = true ∧ c.wf w = true ∧ dinBytes c = d ∧
      encode c = opcodeOfTag pc.kind :: ((if hasPageNo pc.kind then [pc.pageNo] else []) ++ d) := by
  obtain ⟨k, p, l⟩ := pc
  rcases legalTag_cases k hk with rfl | rfl | rfl | rfl | rfl
  case inr.inl =>
    simp only [if_true] at hd hw
    have hwf : (Instr.write p d).wf w = true := by simp [Instr.wf, Instr.check, hd, hw]
    exact ⟨.write p d, by simp [portFits, hd], hwf, rfl, rfl⟩
  all_goals obtain rfl : d = [] := by simpa using hd
  · exact ⟨.ping, rfl, rfl, rfl, rfl⟩
  · exact ⟨.read p, by simp [portFits], rfl, rfl, rfl⟩
  · exact ⟨.verify p, by simp [portFits], rfl, rfl, rfl⟩
  · exact ⟨.quit, rfl, rfl, rfl, rfl⟩

/-! ### What is left of the frame under way -/

/-- R101: the `page_no` byte of the payload, for the commands that have one. -/
def State.pageNoField (s : State) : List Byte := if hasPageNo s.kind then [s.pageNo] else []

/-- The number of `page_data` bytes that the frame under way still takes. -/
def State.dinLeft (s : State) : Nat :=
  match s.phase with
  | .hdr | .opc | .pno => if s.kind = 1 then s.remaining else 0
  | .data => s.remaining
  | .idle | .csum | .ftr | .unreachable => 0

/-- The bytes that the frame under way still sends before its footer, when `d` are the `page_data` bytes it still takes. -/
def State.bodyLeft (s : State) (d : List Byte) : List Byte :=
  match s.phase with
  | .hdr => header.drop s.hidx.toNat ++ nibblesFrom s.csum (opcodeOfTag s.kind :: (s.pageNoField ++ d))
  | .opc =>
    if s.nib then loNibble s.hold :: nibblesFrom s.csum (s.pageNoField ++ d)
    else nibblesFrom s.csum (opcodeOfTag s.kind :: (s.pageNoField ++ d))
  | .pno => if s.nib then loNibble s.hold :: nibblesFrom s.csum d else nibblesFrom s.csum (s.pageNo :: d)
  | .data => if s.nib then loNibble s.hold :: nibblesFrom s.csum d else nibblesFrom s.csum d
  | .csum => if s.nib then [loNibble s.hold] else nibblesFrom s.csum d
  | .idle | .ftr | .unreachable => []

/-- The output transfers that the frame under way still makes; none in `IDLE`. -/
def State.frameLeft (s : State) (d : List Byte) : List OutByte :=
  if s.phase = .idle then [] else endFrame (s.bodyLeft d)

/-- What of R157 the count of the bytes left rests on: its points 2 (in `HDR`) and 6, and the width of `remaining` (R26). -/
structure Counted (s : State) : Prop where
  hdr_nib : s.phase = .hdr → s.nib = false
  data_remaining : s.phase = .data → s.nib = false → 1 ≤ s.remaining
  remaining_width : s.remaining < 2 ^ s.lenW

theorem counted_of_inv {s : State} (h : SeqInv s) : Counted s :=
  ⟨fun hp => h.nib_high (.inr (.inl hp)), h.data_remaining, h.remaining_width⟩

/-! ### One output transfer -/

theorem header_drop (x : BitVec 2) :
    header.drop x.toNat = headerByte x :: if x = 3 then [] else header.drop (x + 1).toNat := by
  revert x; decide

/-- R158: the decrement of a count that is not 0 does not wrap. -/
theorem decLen_add_one {w r : Nat} (h : 1 ≤ r) (hw : r < 2 ^ w) : decLen w r + 1 = r := by
  have hadd : r + (2 ^ w - 1) = r - 1 + 2 ^ w := by omega
  rw [decLen, hadd, Nat.add_mod_right, Nat.mod_eq_of_lt (by omega)]
  omega

theorem takes_of_not_fireIn {s : State} (h : s.fireIn = false) : s.takes = [] := by
  simp [State.takes, h]

theorem ne_idle_and_ne_ftr {ph : Phase} (h : ph = .opc ∨ ph = .pno ∨ ph = .data ∨ ph = .csum) :
    ph ≠ .idle ∧ ph ≠ .ftr := by
  rcases h with rfl | rfl | rfl | rfl <;> decide

/-- R158: `DATA` is entered, and gone on with, only while bytes remain. -/
theorem nextPhase_data {ph : Phase} {k : BitVec 3} {r : Nat} (h : nextPhase ph k r = .data) : r ≠ 0 := by
  cases ph with
  | pno =>
    simp only [nextPhase] at h
    split at h
    case isTrue hw => exact hw.2
    case isFalse => cases h
  | data =>
    simp only [nextPhase] at h
    split at h
    case isTrue hw => exact hw
    case isFalse => cases h
  | opc => simp only [nextPhase] at h; split at h <;> cases h
  | idle | hdr | csum | ftr | unreachable => cases h

theorem nextPhase_ne_idle {ph : Phase} {k : BitVec 3} {r : Nat} (h : ph ≠ .idle) : nextPhase ph k r ≠ .idle := by
  cases ph with
  | idle => exact absurd rfl h
  | opc | pno | data => simp only [nextPhase]; split <;> simp
  | hdr | csum | ftr | unreachable => simp [nextPhase]

/-- R153: the phase of the next byte has the count of the bytes left. -/
theorem dinLeft_lowNibbleEdge {s : State}
    (hp : s.phase = .opc ∨ s.phase = .pno ∨ s.phase = .data ∨ s.phase = .csum) :
    (lowNibbleEdge s).dinLeft = s.dinLeft := by
  rcases hp with hp | hp | hp | hp <;>
    simp only [State.dinLeft, lowNibbleEdge_phase, lowNibbleEdge_kind, lowNibbleEdge_remaining, hp, nextPhase]
  · cases hk : hasPageNo s.kind with
    | true => rfl
    | false =>
      have hne : s.kind ≠ 1 := by rintro h; simp [hasPageNo, h] at hk
      exact (if_neg hne).symm
  · by_cases hw : s.kind = 1 ∧ s.remaining ≠ 0
    · simp only [if_pos hw, if_pos hw.1]
    · simp only [if_neg hw]
      split <;> tauto
  · by_cases hw : s.remaining = 0 <;> simp [hw]

theorem transferEdge_counted {s : State} (hs : Counted s) : Counted (transferEdge s) := by
  rcases transferEdge_cases s with ⟨-, he⟩ | ⟨hp, he⟩ | ⟨hp, hn, he⟩ | ⟨hp, hn, he⟩ | ⟨hp, he⟩ <;> rw [he]
  · exact hs
  · refine ⟨fun _ => by simpa using hs.hdr_nib hp, fun hu => ?_, by simpa using hs.remaining_width⟩
    rw [headerEdge_phase, hp] at hu
    split at hu <;> cases hu
  · refine ⟨fun hu => by simp [show s.phase = .hdr from hu] at hp, by simp, ?_⟩
    rw [highNibbleEdge_remaining, highNibbleEdge_lenW]
    split
    · exact Nat.mod_lt _ (Nat.two_pow_pos _)
    · exact hs.remaining_width
  · refine ⟨fun _ => rfl, fun hu _ => Nat.one_le_iff_ne_zero.2 (nextPhase_data hu), hs.remaining_width⟩
  · exact ⟨by simp, by simp, hs.remaining_width⟩

/-- The transfer of this cycle, with the registers `u` after it and `d` still to be taken then: it takes its bytes from the ones
left before it, and it sends the first byte of the body left. -/
structure SendsFirst (s u : State) (d : List Byte) : Prop where
  count : (s.takes ++ d).length = s.dinLeft
  body : s.bodyLeft (s.takes ++ d) = s.doutData :: u.bodyLeft d

/-- A cycle with the registers `u` after it and `d` still to be taken then: what it takes and what it sends are the beginning of
what was left of the frame before it. -/
structure FrameGoesOn (s u : State) (d : List Byte) : Prop where
  count : (s.takes ++ d).length = s.dinLeft
  frame : s.frameLeft (s.takes ++ d) = s.sends ++ u.frameLeft d

section
variable {s : State} (hf : s.fireOut = true)
include hf

theorem doutValid_of_fireOut : s.doutValid = true := by
  simp only [State.fireOut, Bool.and_eq_true] at hf
  exact hf.1.2

theorem doutData_nibble (hp : s.phase = .opc ∨ s.phase = .pno ∨ s.phase = .data ∨ s.phase = .csum) :
    s.doutData = s.nibbleByte := by
  rw [State.doutData, if_pos (doutValid_of_fireOut hf)]
  rcases hp with hp | hp | hp | hp <;> rw [hp]

/-- R151: the header transfer sends the next header byte. -/
theorem headerEdge_sendsFirst (hp : s.phase = .hdr) (hn : s.nib = false) {d : List Byte}
    (hd : d.length = (headerEdge s).dinLeft) : SendsFirst s (headerEdge s) d := by
  have hdata : s.doutData = headerByte s.hidx := by simp [State.doutData, doutValid_of_fireOut hf, hp]
  have htakes := takes_of_not_fireIn (fireIn_of_ne_data (s := s) (by simp [hp]))
  by_cases hx : s.hidx = 3
  · have hu : headerEdge s = { s with hidx := 0, phase := .opc } := if_pos hx
    rw [hu] at hd ⊢
    constructor
    · simpa [State.dinLeft, hp, htakes] using hd
    · simp only [State.bodyLeft, hp, hn, htakes, hdata, header_drop s.hidx, if_pos hx]
      rfl
  · have hu : headerEdge s = { s with hidx := s.hidx + 1 } := if_neg hx
    rw [hu] at hd ⊢
    constructor
    · simpa [State.dinLeft, hp, htakes] using hd
    · simp only [State.bodyLeft, hp, htakes, hdata, header_drop s.hidx, if_neg hx]
      rfl

/-- R152: the transfer of a high nibble sends it, and the byte's low nibble is what `hold` keeps. -/
theorem highNibbleEdge_sendsFirst (hs : Counted s)
    (hp : s.phase = .opc ∨ s.phase = .pno ∨ s.phase = .data ∨ s.phase = .csum)
    (hn : s.nib = false) {d : List Byte} (hd : d.length = (highNibbleEdge s).dinLeft) :
    SendsFirst s (highNibbleEdge s) d := by
  have hfield : (highNibbleEdge s).pageNoField = s.pageNoField := rfl
  have hdata : s.doutData = hiNibble s.cur := by simp [doutData_nibble hf hp, State.nibbleByte, hn]
  by_cases hdat : s.phase = .data
  · have htakes : s.takes = [s.inputNow.dinData] := if_pos (fireIn_of_fireOut hf hdat hn)
    have hdec := decLen_add_one (hs.data_remaining hdat hn) hs.remaining_width
    have hleft : d.length = decLen s.lenW s.remaining := by simpa [State.dinLeft, hdat] using hd
    exact ⟨by simp [State.dinLeft, hdat, htakes, hleft, hdec],
      by simp [State.bodyLeft, State.cur, hdat, hn, hdata, htakes, nibblesFrom]⟩
  · have htakes := takes_of_not_fireIn (fireIn_of_ne_data hdat)
    rcases hp with hp | hp | hp | hp
    · exact ⟨by simpa [State.dinLeft, hp, htakes] using hd,
        by simp [State.bodyLeft, State.cur, hp, hn, hdata, htakes, nibblesFrom, hfield]⟩
    · exact ⟨by simpa [State.dinLeft, hp, htakes] using hd,
        by simp [State.bodyLeft, State.cur, hp, hn, hdata, htakes, nibblesFrom]⟩
    · exact absurd hp hdat
    · obtain rfl : d = [] := by simpa [State.dinLeft, hp] using hd
      exact ⟨by simp [State.dinLeft, hp, htakes],
        by simp [State.bodyLeft, State.cur, hp, hn, hdata, htakes, nibblesFrom, nibbles]⟩

/-- R153: the transfer of a low nibble sends it, and the next byte is that of the next phase. -/
theorem lowNibbleEdge_sendsFirst (hp : s.phase = .opc ∨ s.phase = .pno ∨ s.phase = .data ∨ s.phase = .csum)
    (hn : s.nib = true) {d : List Byte} (hd : d.length = (lowNibbleEdge s).dinLeft) :
    SendsFirst s (lowNibbleEdge s) d := by
  have hdata : s.doutData = loNibble s.hold := by simp [doutData_nibble hf hp, State.nibbleByte, hn]
  have htakes : s.takes = [] := takes_of_not_fireIn (by simp [State.fireIn, State.dinReady, hn])
  rw [dinLeft_lowNibbleEdge hp] at hd
  refine ⟨by simpa [htakes] using hd, ?_⟩
  rw [htakes, hdata, List.nil_append]
  have hu : lowNibbleEdge s = { s with nib := false, phase := nextPhase s.phase s.kind s.remaining } := rfl
  rcases hp with hp | hp | hp | hp <;> rw [hp, nextPhase] at hu <;> rw [hu]
  · cases hk : hasPageNo s.kind <;> simp [State.bodyLeft, State.pageNoField, hp, hn, hk]
  · split <;> simp [State.bodyLeft, hp, hn]
  · split <;> simp [State.bodyLeft, hp, hn]
  · simp [State.bodyLeft, hp, hn]

/-- Before the footer, the first byte of the body left is the first byte of the frame left. -/
theorem SendsFirst.frameGoesOn {u : State} {d : List Byte} (h : SendsFirst s u d) (hp : s.phase ≠ .idle ∧ s.phase ≠ .ftr)
    (hu : u.phase ≠ .idle) : FrameGoesOn s u d := by
  refine ⟨h.count, ?_⟩
  rw [State.frameLeft, State.frameLeft, if_neg hp.1, if_neg hu, h.body, State.sends, if_pos hf]
  simp [endFrame, State.outByte, State.doutLast, hp.2]

/-- R154: the footer is the last byte, and `dout_last` says so (R145). -/
theorem footerEdge_frameGoesOn (hp : s.phase = .ftr) : FrameGoesOn s (footerEdge s) [] := by
  obtain ⟨hr, -, -⟩ := (fireOut_iff s).1 hf
  have htakes := takes_of_not_fireIn (fireIn_of_ne_data (s := s) (by simp [hp]))
  have hout : s.outByte = ⟨footerByte, true⟩ := by
    simp [State.outByte, State.doutData, State.doutLast, doutValid_of_fireOut hf, hp, hr]
  exact ⟨by simp [State.dinLeft, hp, htakes],
    by simp [State.frameLeft, State.bodyLeft, State.sends, hf, hp, hout, endFrame]⟩

/-- R151 to R154: an output transfer, in whichever phase. -/
theorem transferEdge_frameGoesOn (hs : Counted s) {d : List Byte} (hd : d.length = (transferEdge s).dinLeft) :
    FrameGoesOn s (transferEdge s) d := by
  rcases transferEdge_cases s with ⟨hp | hp, -⟩ | ⟨hp, he⟩ | ⟨hp, hn, he⟩ | ⟨hp, hn, he⟩ | ⟨hp, he⟩
  · simp [fireOut_of_idle hp] at hf
  · simp [State.fireOut, State.doutValid, State.offersByte, hp] at hf
  · rw [he] at hd ⊢
    refine (headerEdge_sendsFirst hf hp (hs.hdr_nib hp) hd).frameGoesOn hf (by simp [hp]) ?_
    rw [headerEdge_phase, hp]
    split <;> simp
  · rw [he] at hd ⊢
    have hne := ne_idle_and_ne_ftr hp
    exact (highNibbleEdge_sendsFirst hf hs hp hn hd).frameGoesOn hf hne hne.1
  · rw [he] at hd ⊢
    have hne := ne_idle_and_ne_ftr hp
    exact (lowNibbleEdge_sendsFirst hf hp hn hd).frameGoesOn hf hne (nextPhase_ne_idle hne.1)
  · rw [he] at hd ⊢
    obtain rfl : d = [] := List.length_eq_zero_iff.1 hd
    exact footerEdge_frameGoesOn hf hp

end

/-- R155: a cycle without an output transfer takes nothing either. -/
theorem frameGoesOn_of_stall {s : State} (hf : s.fireOut = false) {d : List Byte} (hd : d.length = s.dinLeft) :
    FrameGoesOn s s d := by
  have hi : s.fireIn = false := by
    by_contra hi
    simp [fireOut_of_fireIn (by simpa using hi)] at hf
  have htakes := takes_of_not_fireIn hi
  exact ⟨by rw [htakes]; exact hd, by simp [State.sends, hf, htakes]⟩

/-! ### One step without reset -/

section
variable {s t : State} (hr : s.inputNow.rst = false) (h : step s = .next t)
include hr h

/-- R8, R150: the port carries the length of a Write that is accepted. -/
theorem step_presentable (hc : s.fireCmd = true) (hk : s.inputNow.cmdKind = 1) : s.inputNow.cmdLen < 2 ^ s.lenW := by
  obtain ⟨-, hp, hv⟩ := (fireCmd_iff s).1 hc
  rcases step_cases h with ⟨hr', -⟩ | ⟨-, -, -, hpres, -⟩
  · simp [hr] at hr'
  · simpa [offerNow, hv, presentable, State.portCmd, hk] using hpres ((cmdReady_iff s).2 ⟨hr, hp⟩)

theorem step_counted (hs : Counted s) : Counted t := by
  rcases step_run_cases hr h with ⟨hc, hk, rfl⟩ | ⟨-, -, rfl⟩ | ⟨-, -, rfl⟩ | ⟨-, -, rfl⟩
  · refine ⟨fun _ => rfl, by simp, ?_⟩
    rw [endCycle_remaining, clearErrByHost_remaining, latchCmd_remaining]
    split
    case isTrue hw => exact step_presentable hr h hc hw
    case isFalse => exact Nat.two_pow_pos _
  · exact ⟨hs.hdr_nib, hs.data_remaining, hs.remaining_width⟩
  · have hu := transferEdge_counted hs
    exact ⟨hu.hdr_nib, hu.data_remaining, hu.remaining_width⟩
  · exact ⟨hs.hdr_nib, hs.data_remaining, hs.remaining_width⟩

/-- Every cycle that accepts no legal command. -/
theorem step_frameGoesOn (hs : Counted s) (ha : s.accepts = []) {d : List Byte} (hd : d.length = t.dinLeft) :
    FrameGoesOn s t d := by
  rcases step_run_cases hr h with ⟨hc, hk, rfl⟩ | ⟨hc, -, rfl⟩ | ⟨-, hf, rfl⟩ | ⟨-, hf, rfl⟩
  · simp [State.accepts, hc, hk] at ha
  · obtain ⟨-, hp, -⟩ := (fireCmd_iff s).1 hc
    obtain ⟨hcount, hframe⟩ := frameGoesOn_of_stall (fireOut_of_idle hp) hd
    exact ⟨hcount, hframe⟩
  · obtain ⟨hcount, hframe⟩ := transferEdge_frameGoesOn hf hs hd
    exact ⟨hcount, hframe⟩
  · obtain ⟨hcount, hframe⟩ := frameGoesOn_of_stall hf hd
    exact ⟨hcount, hframe⟩

/-- R150: the accept of a legal command begins its frame. -/
theorem step_accept_frame (hc : s.fireCmd = true) (hk : legalTag s.inputNow.cmdKind = true) {d : List Byte}
    (hd : d.length = t.dinLeft) :
    ∃ c, portFits c s.portCmd = true ∧ c.wf s.lenW = true ∧ dinBytes c = d ∧ t.frameLeft d = outBytes (frame c) := by
  obtain rfl := step_accept hc hk h
  have hlen : d.length = if s.portCmd.kind = 1 then s.portCmd.len else 0 := by
    refine hd.trans ?_
    change (if s.portCmd.kind = 1 then if s.portCmd.kind = 1 then s.portCmd.len else 0 else 0) = _
    split <;> rfl
  obtain ⟨c, hfits, hwf, hdin, henc⟩ := exists_command hk (step_presentable hr h hc) hlen
  refine ⟨c, hfits, hwf, hdin, ?_⟩
  rw [outBytes_frame, henc]
  rfl

end

/-! ### Runs to an idle state -/

/-- What a run of `n` cycles from `s` accepts, takes and sends, when it finishes the frame under way with the `page_data` bytes
`d` and sends the frames of the commands `cs` after it. -/
structure Finishes (n : Nat) (s : State) (d : List Byte) (cs : List Instr) : Prop where
  count : d.length = s.dinLeft
  fits : List.Forall₂ (fun c pc => portFits c pc = true) cs (collect State.accepts n s)
  wf : ∀ c ∈ cs, c.wf s.lenW = true
  takes : collect State.takes n s = d ++ cs.flatMap dinBytes
  sends : collect State.sends n s = s.frameLeft d ++ cs.flatMap fun c => outBytes (frame c)

section
variable {n : Nat} {s u : State} {d : List Byte} {cs : List Instr} (hr : s.inputNow.rst = false) (hu : step s = .next u)
include hr hu

/-- A run that begins with an accept. -/
theorem Finishes.accept (h : Finishes n u d cs) (hc : s.fireCmd = true) (hk : legalTag s.inputNow.cmdKind = true) :
    ∃ c, Finishes (n + 1) s [] (c :: cs) := by
  obtain ⟨c, hfits, hwf, hdin, hframe⟩ := step_accept_frame hr hu hc hk h.count
  have haccepts : s.accepts = [s.portCmd] := by simp [State.accepts, hc, hk]
  obtain ⟨-, hp, -⟩ := (fireCmd_iff s).1 hc
  have htakes := takes_of_not_fireIn (fireIn_of_fireCmd hc)
  have hsends : s.sends = [] := by simp [State.sends, fireOut_of_idle hp]
  refine ⟨c, by simp [State.dinLeft, hp], ?_, ?_, ?_, ?_⟩
  · rw [collect_succ hu, haccepts]
    exact .cons hfits h.fits
  · exact List.forall_mem_cons.2 ⟨hwf, step_lenW hu ▸ h.wf⟩
  · rw [collect_succ hu, htakes, h.takes]
    simp [hdin]
  · rw [collect_succ hu, hsends, h.sends, hframe]
    simp [State.frameLeft, hp]

/-- A run that begins with any other cycle. -/
theorem Finishes.goOn (h : Finishes n u d cs) (hs : Counted s) (ha : s.accepts = []) :
    Finishes (n + 1) s (s.takes ++ d) cs := by
  obtain ⟨hcount, hframe⟩ := step_frameGoesOn hr hu hs ha h.count
  refine ⟨hcount, ?_, step_lenW hu ▸ h.wf, ?_, ?_⟩
  · rw [collect_succ hu, ha]
    exact h.fits
  · rw [collect_succ hu, h.takes, List.append_assoc]
  · rw [collect_succ hu, h.sends, hframe, List.append_assoc]

end

/-- Every run to an idle state, by induction on its length from the end. -/
theorem run_finishes {n : Nat} {s t : State} (hs : Counted s) (hr : along State.notReset n s = true)
    (h : runCycles n s = .next t) (ht : t.phase = .idle) : ∃ d cs, Finishes n s d cs := by
  induction n generalizing s with
  | zero =>
    simp only [runCycles_zero, Host.Outcome.next.injEq] at h
    subst h
    exact ⟨[], [], by simp [State.dinLeft, ht], .nil, by simp, rfl, by simp [State.frameLeft, ht]⟩
  | succ n ih =>
    obtain ⟨u, hu, hrun⟩ := runCycles_succ_next h
    rw [along_succ hu, Bool.and_eq_true, State.notReset, Bool.not_eq_true'] at hr
    obtain ⟨hrst, hr⟩ := hr
    obtain ⟨d, cs, hfin⟩ := ih (step_counted hrst hu hs) hr hrun
    cases hc : s.fireCmd && legalTag s.inputNow.cmdKind with
    | true =>
      rw [Bool.and_eq_true] at hc
      obtain ⟨c, hacc⟩ := hfin.accept hrst hu hc.1 hc.2
      exact ⟨[], c :: cs, hacc⟩
    | false => exact ⟨s.takes ++ d, cs, hfin.goOn hrst hu hs (by simp [State.accepts, hc])⟩

/-- Settles O57: from an idle state there is no frame under way, so the run is `run_finishes` with no byte left. -/
theorem outputIsWholeFrames : Obligations.OutputIsWholeFrames := by
  intro n s t hinv hidle hr h ht
  obtain ⟨d, cs, hfin⟩ := run_finishes (counted_of_inv hinv) hr h ht
  obtain rfl : d = [] := by simpa [State.dinLeft, hidle] using hfin.count
  exact ⟨cs, hfin.fits, hfin.wf, hfin.takes.symm, by simpa [State.frameLeft, hidle] using hfin.sends⟩

end Sys2Proof.Machine
end

section
/-! The decoder of payloads (R74, R100) and that of the command port (R70 to R73, R84): each is the inverse of its encoder. A
step of the offered command is the cycle with a port value that decodes to it. -/

namespace Sys2Proof.Machine

theorem wf_write_iff (w : Nat) (p : Byte) (d : List Byte) : (Instr.write p d).wf w = true ↔ d.length < 2 ^ w := by
  by_cases h : d.length < 2 ^ w <;> simp [Instr.wf, Instr.check, h]

/-! ### Payloads -/

theorem decodeNoField_ok {b : Byte} {i j : Instr} {bs : List Byte} (h : decodeNoField b i bs = .ok j) :
    bs = [] ∧ j = i := by
  cases bs with
  | nil => cases h; exact ⟨rfl, rfl⟩
  | cons => cases h

theorem decodePageNo_ok {b : Byte} {mk : Byte → Instr} {j : Instr} {bs : List Byte} (h : decodePageNo b mk bs = .ok j) :
    ∃ p, bs = [p] ∧ j = mk p := by
  match bs, h with
  | [p], h => cases h; exact ⟨p, rfl, rfl⟩

theorem decodeWrite_ok {w : Nat} {b : Byte} {j : Instr} {bs : List Byte} (h : decodeWrite w b bs = .ok j) :
    ∃ p d, bs = p :: d ∧ d.length < 2 ^ w ∧ j = .write p d := by
  cases bs with
  | nil => cases h
  | cons p d =>
    rw [decodeWrite] at h
    split at h
    case isTrue hd => cases h; exact ⟨p, d, rfl, hd, rfl⟩
    case isFalse => cases h

/-- R74: a byte string that decodes begins with one of the five opcodes, and what follows is that command's. -/
theorem decode_ok {w : Nat} {bs : List Byte} {i : Instr} (h : decode w bs = .ok i) : i.wf w = true ∧ encode i = bs := by
  cases bs with
  | nil => cases h
  | cons b rest =>
    rw [decode] at h
    split at h
    case isTrue hb => obtain ⟨rfl, rfl⟩ := decodeNoField_ok h; exact ⟨rfl, by rw [hb]; rfl⟩
    split at h
    case isTrue hb =>
      obtain ⟨p, d, rfl, hd, rfl⟩ := decodeWrite_ok h
      exact ⟨(wf_write_iff w p d).2 hd, by rw [hb]; rfl⟩
    split at h
    case isTrue hb => obtain ⟨p, rfl, rfl⟩ := decodePageNo_ok h; exact ⟨rfl, by rw [hb]; rfl⟩
    split at h
    case isTrue hb => obtain ⟨p, rfl, rfl⟩ := decodePageNo_ok h; exact ⟨rfl, by rw [hb]; rfl⟩
    split at h
    case isTrue hb => obtain ⟨rfl, rfl⟩ := decodeNoField_ok h; exact ⟨rfl, by rw [hb]; rfl⟩
    case isFalse => cases h

theorem decode_encode {w : Nat} {i : Instr} (h : i.wf w = true) : decode w (encode i) = .ok i := by
  cases i with
  | write p d => exact if_pos ((wf_write_iff w p d).1 h)
  | ping | read | verify | quit => rfl

/-- Settles O4: `decode_ok` says what decodes, `decode_encode` that it does. -/
theorem decodeEncode : Obligations.DecodeEncode := by
  intro w bs i
  constructor
  · exact decode_ok
  · rintro ⟨hw, rfl⟩
    exact decode_encode hw

/-- R74, log entry 17: a table word that pads to the payload of a well-formed command stands for that command. -/
theorem decodeTableWord_of_payload {nbits w : Nat} {i : Instr} (hw : i.wf Config.lenW = true)
    (h : tablePayload nbits w = encode i) : decodeTableWord nbits w = some i := by
  rw [decodeTableWord, h, decode_encode hw]

/-! ### Port values -/

/-- R84: port values with a command's fields, and its input-stream bytes, present it. -/
theorem decodePort_of_fits {w : Nat} {pc : PortCmd} {i : Instr} (hw : i.wf w = true) (h : portFits i pc = true) :
    decodePort w pc (dinBytes i) = .ok i := by
  obtain ⟨k, p, l⟩ := pc
  cases i with
  | write q d =>
    rw [wf_write_iff] at hw
    simp only [portFits, Bool.and_eq_true, beq_iff_eq] at h
    obtain ⟨⟨rfl, rfl⟩, rfl⟩ := h
    simp [decodePort, dinBytes, hw]
  | ping | quit =>
    obtain rfl := beq_iff_eq.1 h
    rfl
  | read q | verify q =>
    simp only [portFits, Bool.and_eq_true, beq_iff_eq] at h
    obtain ⟨rfl, rfl⟩ := h
    rfl

/-- R72: what a Write's port values and bytes decode to. -/
theorem decodePort_write_ok {w : Nat} {p : Byte} {l : Nat} {d : List Byte} {i : Instr}
    (h : decodePort w ⟨1, p, l⟩ d = .ok i) : l < 2 ^ w ∧ d.length = l ∧ i = .write p d := by
  rw [decodePort, if_neg (show (1 : BitVec 3) ≠ 0 by decide), if_pos rfl] at h
  split at h
  case isFalse => cases h
  case isTrue hl =>
    split at h
    case isTrue hd => cases h; exact ⟨hl, hd, rfl⟩
    case isFalse => cases h

/-- R71, R72: port values that decode have the fields of the command they decode to. -/
theorem decodePort_ok {w : Nat} {pc : PortCmd} {d : List Byte} {i : Instr} (h : decodePort w pc d = .ok i) :
    portFits i pc = true ∧ i.wf w = true ∧ (pc.kind = 1 → dinBytes i = d) := by
  have hk : legalTag pc.kind = true := by
    by_contra hk
    rw [decodePort_reserved ((legalTag_eq_false_iff _).1 (by simpa using hk))] at h
    cases h
  obtain ⟨k, p, l⟩ := pc
  rcases legalTag_cases k hk with rfl | rfl | rfl | rfl | rfl
  case inr.inl =>
    obtain ⟨hl, rfl, rfl⟩ := decodePort_write_ok h
    exact ⟨by simp [portFits], (wf_write_iff w p d).2 hl, fun _ => rfl⟩
  all_goals
    obtain rfl := Except.ok.inj h
    exact ⟨by simp [portFits], rfl, by simp⟩

theorem portFits_encodePort (i : Instr) : portFits i (encodePort i) = true := by
  cases i <;> simp [portFits, encodePort]

/-- Settles O5: `decodePort_of_fits` for the way there, `decodePort_ok` for the way back. -/
theorem portRoundTrip : Obligations.PortRoundTrip :=
  ⟨fun _ i hw => decodePort_of_fits hw (portFits_encodePort i), portFits_encodePort,
    fun _ _ _ hw h => decodePort_of_fits hw h, fun _ _ _ _ h => decodePort_ok h⟩

/-- Settles O7: the five table words are payloads of commands, and the other words are read off the tables of R71 and R73. -/
theorem wordsDecode : Obligations.WordsDecode :=
  ⟨decodeTableWord_of_payload rfl rfl, decodeTableWord_of_payload rfl rfl, decodeTableWord_of_payload rfl rfl,
    decodeTableWord_of_payload rfl rfl, decodeTableWord_of_payload rfl rfl, rfl,
    decodePort_of_fits (i := .write 3 [1, 2]) (by decide) (by decide), decodePort_of_fits (i := .read 0x12) rfl (by decide),
    decodePort_reserved (by decide)⟩

/-- R73: the three fields of `CMD` lie side by side. -/
theorem packCmd_fields (pc : PortCmd) :
    packCmd pc % 2 ^ 3 = pc.kind.toNat ∧ packCmd pc / 2 ^ 3 % 2 ^ 8 = pc.pageNo.toNat ∧ packCmd pc / 2 ^ 11 = pc.len := by
  have hk := pc.kind.isLt
  have hp := pc.pageNo.isLt
  unfold packCmd
  omega

/-- Settles O6: the width and the unpacking follow from the places of the fields. -/
theorem cmdWordLayout : Obligations.CmdWordLayout := by
  intro w pc hl
  obtain ⟨hkind, hpage, hlen⟩ := packCmd_fields pc
  have hwidth : packCmd pc < 2 ^ (11 + w) := by
    rw [pow_add, mul_comm, ← Nat.div_lt_iff_lt_mul (by decide), hlen]
    exact hl
  refine ⟨hwidth, hkind, hpage, hlen, ?unpack⟩
  have hk : BitVec.ofNat 3 (packCmd pc) = pc.kind := BitVec.eq_of_toNat_eq hkind
  have hp : BitVec.ofNat 8 (packCmd pc / 2 ^ 3) = pc.pageNo := BitVec.eq_of_toNat_eq hpage
  rw [unpackCmd, hk, hp, hlen, Nat.mod_eq_of_lt hl]

/-! ### A step is the offered command's meaning -/

/-- Settles O18: the port values on offer decode to the command, so both sides are the cycle with these port values. -/
theorem stepRunsOfferedCommand : Obligations.StepRunsOfferedCommand := by
  refine ⟨fun s i ho hw => ?command, fun s hv => ?nothing, fun s hv _ => ?reserved⟩
  case command =>
    obtain ⟨hv, hfits⟩ := Bool.and_eq_true_iff.1 ho
    rw [step_eq_cycle, offerNow, if_pos hv, exec_fetched (decodePort_of_fits hw hfits)]
  case nothing => rw [step_eq_cycle, offerNow, hv, if_neg Bool.false_ne_true]
  case reserved => rw [step_eq_cycle, offerNow, if_pos hv]

end Sys2Proof.Machine
end

section
/-! The frame of a command by its indices (R77, R80): the header, the nibble pairs of the payload and of its checksum, and the
footer. What a frame carries is read back from it. -/

namespace Sys2Proof.Machine

/-! ### Lengths (R76, R78, R128) -/

theorem encode_length (i : Instr) : (encode i).length = payloadLen i := by
  cases i with
  | ping => exact Laws.PayloadShape.ping.2
  | write p d => exact (Laws.PayloadShape.write p d).2
  | read p => exact (Laws.PayloadShape.read p).2
  | verify p => exact (Laws.PayloadShape.verify p).2
  | quit => exact Laws.PayloadShape.quit.2

@[simp] theorem frame_length (i : Instr) : (frame i).length = 7 + 2 * (encode i).length := by
  simp only [frame, wrapFrame, List.length_append, nibbleStream_length, header, footer, List.length_cons, List.length_nil]
  omega

theorem frame_length_write (p : Byte) (d : List Byte) : (frame (.write p d)).length = 11 + 2 * d.length := by
  rw [frame_length, encode_length, payloadLen]
  omega

/-- R128: no frame is shorter than that of a command without a field. -/
theorem nine_le_frame_length (i : Instr) : 9 ≤ (frame i).length := by
  rw [frame_length, encode_length]
  cases i <;> simp only [payloadLen] <;> omega

/-- R128: the longest frame of a block with `LEN_W` bits for the number of `page_data` bytes. -/
theorem frame_length_le {w : Nat} {i : Instr} (hw : i.wf w = true) : (frame i).length ≤ 9 + 2 * 2 ^ w := by
  have hpos := Nat.two_pow_pos w
  cases i with
  | write p d =>
    have hd := (wf_write_iff w p d).1 hw
    rw [frame_length_write]
    omega
  | ping | read | verify | quit =>
    rw [frame_length, encode_length]
    simp only [payloadLen]
    omega

theorem exists_longest_frame (w : Nat) : ∃ i : Instr, i.wf w = true ∧ (frame i).length = 9 + 2 * 2 ^ w := by
  have hpos := Nat.two_pow_pos w
  refine ⟨.write 0 (List.replicate (2 ^ w - 1) 0), ?_, ?_⟩
  · rw [wf_write_iff, List.length_replicate]
    omega
  · rw [frame_length_write, List.length_replicate]
    omega

/-- Settles O3: every length is `frame_length` of the payload length, and the bounds are those for 16 bits. -/
theorem frameLength : Obligations.FrameLength := by
  refine ⟨fun i => ⟨encode_length i, by rw [frame_length]; omega⟩, ⟨rfl, rfl⟩,
    fun p d => ⟨rfl, rfl, frame_length_write p d⟩, fun p => ⟨rfl, rfl⟩, fun p => ⟨rfl, rfl⟩, ⟨rfl, rfl⟩,
    nine_le_frame_length, fun i hw => frame_length_le hw, exists_longest_frame 16⟩

/-! ### Every byte by its index (R77) -/

/-- R122: the nibbles of byte `k` are at `2 * k` and after it. -/
theorem flatMap_nibbles_getElem? (l : List Byte) (k : Nat) :
    (l.flatMap nibbles)[2 * k]? = l[k]?.map hiNibble ∧ (l.flatMap nibbles)[2 * k + 1]? = l[k]?.map loNibble := by
  induction l generalizing k with
  | nil => simp
  | cons b l ih =>
    cases k with
    | zero => simp [nibbles]
    | succ k => simpa [nibbles, Nat.mul_succ] using ih k

theorem checksummed_length (p : List Byte) : (checksummed p).length = p.length + 1 := by
  simp [checksummed]

/-- The bytes of a frame between its header and its footer. -/
theorem frame_getElem?_body (i : Instr) {k : Nat} (hk : k < 2 * ((encode i).length + 1)) :
    (frame i)[4 + k]? = (nibbleStream (encode i))[k]? := by
  have hlen : k < (nibbleStream (encode i)).length := by rwa [nibbleStream_length]
  have hheader : header.length = 4 := rfl
  rw [frame, wrapFrame, List.append_assoc, List.getElem?_append_right (by omega), hheader, Nat.add_sub_cancel_left,
    List.getElem?_append_left hlen]

theorem frame_getElem?_header (i : Instr) {k : Nat} (hk : k < 4) : (frame i)[k]? = header[k]? := by
  rw [frame, wrapFrame, List.append_assoc, List.getElem?_append_left hk]

theorem frame_getElem?_footer (i : Instr) : (frame i)[6 + 2 * (encode i).length]? = some footerByte := by
  have hlen : (header ++ nibbleStream (encode i)).length = 6 + 2 * (encode i).length := by
    rw [List.length_append, nibbleStream_length, header]
    simp only [List.length_cons, List.length_nil]
    omega
  rw [frame, wrapFrame, ← hlen, List.getElem?_append_right le_rfl, Nat.sub_self]
  rfl

/-- R77: the nibbles of byte `k` of the payload with its checksum. -/
theorem frame_getElem?_nibbles (i : Instr) {k : Nat} {b : Byte} (hb : (checksummed (encode i))[k]? = some b) :
    (frame i)[4 + 2 * k]? = some (hiNibble b) ∧ (frame i)[5 + 2 * k]? = some (loNibble b) := by
  obtain ⟨hk, -⟩ := List.getElem?_eq_some_iff.1 hb
  rw [checksummed_length] at hk
  obtain ⟨hhi, hlo⟩ := flatMap_nibbles_getElem? (checksummed (encode i)) k
  rw [hb] at hhi hlo
  have hadd : 5 + 2 * k = 4 + (2 * k + 1) := by omega
  rw [hadd, frame_getElem?_body i (by omega), frame_getElem?_body i (by omega)]
  exact ⟨hhi, hlo⟩

/-- Settles O10: the three parts of the frame by index, with the checksum as byte `n` of what is split into nibbles. -/
theorem frameFormat : Obligations.FrameFormat := by
  intro i
  have hpayload : ∀ (k : Nat) b, (encode i)[k]? = some b → (checksummed (encode i))[k]? = some b := fun k b hb =>
    (List.getElem?_append_left (List.getElem?_eq_some_iff.1 hb).1).trans hb
  have hchecksum : (checksummed (encode i))[(encode i).length]? = some (checksum (encode i)) := by simp [checksummed]
  obtain ⟨hhi, hlo⟩ := frame_getElem?_nibbles i hchecksum
  exact ⟨frame_getElem?_header i (k := 0) (by decide), frame_getElem?_header i (k := 1) (by decide),
    frame_getElem?_header i (k := 2) (by decide), frame_getElem?_header i (k := 3) (by decide),
    fun k b hb => frame_getElem?_nibbles i (hpayload k b hb), hhi, hlo, frame_getElem?_footer i, frame_length i⟩

/-! ### What a frame carries -/

/-- R126, R131: the two nibbles of a byte join to it. -/
theorem hiNibble_or_loNibble (b : Byte) : hiNibble b <<< 4 ||| loNibble b = b := by
  revert b; decide

theorem reassemble_flatMap_nibbles (l : List Byte) : reassemble (l.flatMap nibbles) = l := by
  induction l with
  | nil => rfl
  | cons b l ih => simp [nibbles, reassemble, hiNibble_or_loNibble, ih]

/-- R131: the payload with its checksum, from the bytes between header and footer. -/
theorem reassemble_frame (i : Instr) :
    reassemble (((frame i).drop 4).take (2 * ((encode i).length + 1))) = checksummed (encode i) := by
  have hdrop : (frame i).drop 4 = nibbleStream (encode i) ++ footer := rfl
  rw [hdrop, List.take_left' (nibbleStream_length _)]
  exact reassemble_flatMap_nibbles _

theorem wf_encode_length (i : Instr) : i.wf (encode i).length = true := by
  cases i with
  | write p d =>
    rw [wf_write_iff, encode_length, payloadLen]
    exact Nat.lt_trans (by omega) Nat.lt_two_pow_self
  | ping | read | verify | quit => rfl

/-- R100: a payload has one command, since the decoder gives it back. -/
theorem encode_injective : Function.Injective encode := by
  intro i j h
  have hi := decode_encode (wf_encode_length i)
  rw [h] at hi
  exact Except.ok.inj (hi.symm.trans (decode_encode (wf_encode_length j)))

/-- R133: what a frame carries is its command's payload. -/
theorem frame_injective : Function.Injective frame := by
  intro i j h
  have hlen : (encode i).length = (encode j).length := by
    have := congrArg List.length h
    rw [frame_length, frame_length] at this
    omega
  have hsum : checksummed (encode i) = checksummed (encode j) := by
    rw [← reassemble_frame, ← reassemble_frame, h, hlen]
  exact encode_injective (List.append_inj hsum hlen).1

/-! ### Byte classes (R79, R80) -/

theorem toNat_lt_of_mem_nibbleStream {p : List Byte} {b : Byte} (h : b ∈ nibbleStream p) : b.toNat < 16 := by
  simp only [nibbleStream, List.mem_flatMap, nibbles, List.mem_cons, List.not_mem_nil, or_false] at h
  obtain ⟨c, -, rfl | rfl⟩ := h
  · exact hiNibble_lt c
  · exact loNibble_lt c

/-- A byte of a frame is a header byte, a nibble, or the footer, by its index (R77, R79). -/
theorem frame_byte_cases {i : Instr} {k : Nat} {b : Byte} (h : (frame i)[k]? = some b) :
    (k < 4 ∧ header[k]? = some b) ∨ (4 ≤ k ∧ k + 1 < (frame i).length ∧ b.toNat < 16) ∨
      (k + 1 = (frame i).length ∧ b = footerByte) := by
  obtain ⟨hlt, -⟩ := List.getElem?_eq_some_iff.1 h
  rw [frame_length] at hlt ⊢
  by_cases hheader : k < 4
  · exact .inl ⟨hheader, (frame_getElem?_header i hheader).symm.trans h⟩
  by_cases hfooter : k = 6 + 2 * (encode i).length
  · subst hfooter
    rw [frame_getElem?_footer] at h
    exact .inr (.inr ⟨by omega, (Option.some.inj h).symm⟩)
  · obtain ⟨m, rfl⟩ : ∃ m, k = 4 + m := ⟨k - 4, by omega⟩
    rw [frame_getElem?_body i (by omega)] at h
    exact .inr (.inl ⟨by omega, by omega, toNat_lt_of_mem_nibbleStream (List.mem_of_getElem? h)⟩)

theorem header_byte_classes {k : Nat} {b : Byte} (hk : k < 4) (h : header[k]? = some b) :
    (b = 0xF0 ↔ k = 0) ∧ b ≠ 0xF7 ∧ (b = 0x70 ↔ k = 2) ∧ (k ≠ 0 → k ≠ 2 → b.toNat ≤ 15) := by
  interval_cases k <;> obtain rfl := Option.some.inj h <;> decide

/-- R80: which bytes of a frame are 0xF0, 0xF7 and 0x70, by their index. -/
theorem frame_byte_classes {i : Instr} {k : Nat} {b : Byte} (h : (frame i)[k]? = some b) :
    (b = 0xF0 ↔ k = 0) ∧ (b = 0xF7 ↔ k + 1 = (frame i).length) ∧ (b = 0x70 ↔ k = 2) ∧
      (k ≠ 0 → k ≠ 2 → k + 1 ≠ (frame i).length → b.toNat ≤ 15) := by
  have hlen := nine_le_frame_length i
  rcases frame_byte_cases h with ⟨hk, hb⟩ | ⟨hk, hlast, hb⟩ | ⟨hlast, rfl⟩
  case inl =>
    obtain ⟨hstart, hend, hid, hnibble⟩ := header_byte_classes hk hb
    exact ⟨hstart, iff_of_false hend (by omega), hid, fun h0 h2 _ => hnibble h0 h2⟩
  case inr.inl =>
    have hne : ∀ c : Byte, 16 ≤ c.toNat → b ≠ c := by
      rintro c hc rfl
      omega
    exact ⟨iff_of_false (hne 0xF0 (by decide)) (by omega), iff_of_false (hne 0xF7 (by decide)) (by omega),
      iff_of_false (hne 0x70 (by decide)) (by omega), fun _ _ _ => by omega⟩
  case inr.inr =>
    exact ⟨iff_of_false (by decide) (by omega), iff_of_true rfl hlast, iff_of_false (by decide) (by omega),
      fun _ _ hne => absurd hlast hne⟩

/-- R80: the footer ends a frame, so the frames of different commands do not begin with one another. -/
theorem eq_of_frame_isPrefix {i j : Instr} (h : frame i <+: frame j) : i = j := by
  have hj : (frame j)[6 + 2 * (encode i).length]? = some footerByte := by
    obtain ⟨rest, hrest⟩ := h
    rw [← hrest, List.getElem?_append_left (by rw [frame_length]; omega), frame_getElem?_footer]
  have hlen : (frame i).length = (frame j).length := by
    rw [← (frame_byte_classes hj).2.1.1 rfl, frame_length]
    omega
  exact frame_injective (h.eq_of_length hlen)

/-- Settles O17: `frame_byte_classes`, and that a frame is self-delimiting. -/
theorem byteClasses : Obligations.ByteClasses :=
  ⟨fun _ _ _ => frame_byte_classes, fun _ => rfl, fun _ _ => eq_of_frame_isPrefix, rfl, rfl⟩

end Sys2Proof.Machine
end

section
/-! Ignored port fields (R72): two port values with the same used fields latch alike registers, and a cycle sees the command port
only through its offer. -/

namespace Sys2Proof.Machine

/-- The port values agree in every field that a command with this tag uses (R71, R72). -/
structure SameUsedFields (pc pc' : PortCmd) : Prop where
  kind : pc'.kind = pc.kind
  pageNo : hasPageNo pc.kind = true → pc'.pageNo = pc.pageNo
  len : pc.kind = 1 → pc'.len = pc.len

theorem portOf_sameUsedFields (i : Instr) (s t : State) : SameUsedFields (portOf i s) (portOf i t) := by
  cases i <;> constructor <;> simp [portOf, hasPageNo]

theorem running_iff (s : State) :
    s.running = true ↔ s.inputNow.rst = false ∧ s.phase ≠ .unreachable ∧ s.dinStable = true := by
  simp [State.running, and_assoc]

theorem Alike.refl (s : State) : Alike s s := by
  constructor <;> simp

section
variable {pc pc' : PortCmd} (h : SameUsedFields pc pc')
include h

theorem SameUsedFields.presentable_eq (w : Nat) : presentable w (some pc') = presentable w (some pc) := by
  by_cases hk : pc.kind = 1
  · simp only [presentable, h.kind, h.len hk]
  · simp only [presentable, h.kind, beq_false_of_ne hk, Bool.not_false, Bool.true_or]

theorem SameUsedFields.alike_latchCmd (s : State) : Alike (latchCmd pc s) (latchCmd pc' s) :=
  { Alike.refl (latchCmd pc s) with
    kind := fun _ => h.kind
    pageNo := fun _ => h.pageNo
    remaining := fun _ => by
      rw [latchCmd_remaining, latchCmd_remaining, h.kind]
      split
      case isTrue hk => exact h.len hk
      case isFalse => rfl }

theorem SameUsedFields.alike_acceptCmd (s : State) : Alike (acceptCmd pc s) (acceptCmd pc' s) := by
  cases hk : legalTag pc.kind with
  | true =>
    rw [acceptCmd_legal hk, acceptCmd_legal (h.kind ▸ hk)]
    exact (h.alike_latchCmd s).after_clearErrByHost
  | false =>
    rw [acceptCmd_reserved hk, acceptCmd_reserved (h.kind ▸ hk)]
    exact Alike.refl _

theorem SameUsedFields.alike_registerEdge (s : State) :
    Alike (registerEdge (some pc) s) (registerEdge (some pc') s) := by
  cases hc : s.cmdReady with
  | true =>
    rw [registerEdge_accept hc, registerEdge_accept hc]
    exact h.alike_acceptCmd s
  | false =>
    rw [registerEdge_busy hc, registerEdge_busy hc]
    exact Alike.refl _

/-- R72: a cycle with other values in the fields that the offered command does not use answers an alike state. -/
theorem SameUsedFields.cycle_next {s t : State} (hc : cycle (some pc) s = .next t) :
    ∃ t', cycle (some pc') s = .next t' ∧ Alike t t' ∧ t'.sent = t.sent := by
  rcases cycle_cases hc with ⟨hr, hd, rfl⟩ | ⟨hr, hu, hd, hp, rfl⟩
  · exact ⟨_, cycle_reset hr hd _, Alike.refl _, rfl⟩
  · rw [← h.presentable_eq] at hp
    exact ⟨_, cycle_run ((running_iff s).2 ⟨hr, hu, hd⟩) hp, (Alike.refl s).after_endCycle (h.alike_registerEdge s), rfl⟩

end

/-- A cycle sees the command port only through its offer (R62, R70). -/
theorem cycle_sameButCommand (offer : Option PortCmd) (s : State) {a b : Inputs} (h : sameButCommand a b) :
    cycle offer (s.withPorts b) = cycle offer (s.withPorts a) := by
  obtain ⟨v, k, p, l, rfl⟩ := sameButCommand_exists h
  have hs : SampledAlike (s.withPorts a) { a with cmdValid := v, cmdKind := k, cmdPageNo := p, cmdLen := l } :=
    ⟨rfl, rfl, rfl, rfl, fun _ => rfl⟩
  have hedge := hs.registerEdge_eq offer
  rw [withPorts_withPorts] at hedge
  unfold cycle
  rw [hedge]
  rfl

/-- Settles O28: a command's meaning is a cycle with its used fields on the port, and `err` does not depend on the port (R203). -/
theorem ignoredFieldsDoNotMatter : Obligations.IgnoredFieldsDoNotMatter := by
  intro i s a b t hab h
  have hfields := portOf_sameUsedFields i (s.withPorts a) (s.withPorts b)
  obtain ⟨t', hc, halike, hsent⟩ := hfields.cycle_next (exec_eq_cycle i _ ▸ h)
  have ht' : exec i (s.withPorts b) = .next t' := by
    rw [exec_eq_cycle, cycle_sameButCommand _ s hab, hc]
  obtain ⟨hrst, -, -, -, hclr⟩ := hab
  refine ⟨t', ht', halike, hsent, ?err⟩
  rw [exec_err ht', exec_err h, withPorts_inputNow, withPorts_inputNow, hrst, hclr]
  rfl

end Sys2Proof.Machine
end

section
/-! Where a cycle answers a next state: the accept of every command (R104 to R108, R150), and every cycle with no named stop
(R103, R202). -/

namespace Sys2Proof.Machine

/-- R150: in a cycle that can accept, a command that the port can carry is latched. -/
theorem exec_accept {i : Instr} {s : State} (h : s.canAccept = true) (hw : i.wf s.lenW = true) :
    exec i s = .next (endCycle s (clearErrByHost (latchCmd (portOf i s) s))) := by
  rw [exec_eq_cycle, cycle_run (running_of_canAccept h) fun _ => portOf_presentable hw s,
    registerEdge_accept (cmdReady_of_canAccept h), acceptCmd_legal (portOf_legal i s)]

theorem errNext_unset (clr err : Bool) : errNext false false clr err = (err && !clr) := by
  cases clr <;> simp [errNext]

/-- The whole state after the accept of a legal command (R150): no byte is sent or taken in that cycle. -/
theorem endCycle_latchCmd {s : State} (h : s.canAccept = true) (pc : PortCmd) :
    endCycle s (clearErrByHost (latchCmd pc s)) = { s with
      phase := .hdr, hidx := 0, nib := false, kind := pc.kind, pageNo := pc.pageNo,
      remaining := if pc.kind = 1 then pc.len else 0, csum := 0x00,
      err := s.err && !s.inputNow.errClr,
      inputs := s.inputs.tail, dinOffer := if s.inputNow.dinValid then some s.inputNow.dinData else none, taken := [],
      draws := s.draws + 1 } := by
  obtain ⟨hr, hp, -⟩ := (canAccept_iff s).1 h
  have hout : s.fireOut = false := fireOut_of_idle hp
  have hin : s.fireIn = false := fireIn_of_ne_data (by simp [hp])
  ext1 <;> simp [errNext_unset, State.nextDinOffer, hr, hout, hin]

/-- Settles O19: `endCycle_latchCmd` with the port value of Ping. -/
theorem pingAccepted : Obligations.PingAccepted := fun _ h =>
  (exec_accept h rfl).trans (congrArg _ (endCycle_latchCmd h _))

/-- Settles O20: `endCycle_latchCmd` with the port value of Write. -/
theorem writeAccepted : Obligations.WriteAccepted := fun s p d h hd =>
  (exec_accept h ((wf_write_iff s.lenW p d).2 hd)).trans (congrArg _ (endCycle_latchCmd h _))

/-- Settles O21: `endCycle_latchCmd` with the port value of Read. -/
theorem readAccepted : Obligations.ReadAccepted := fun _ _ h =>
  (exec_accept h rfl).trans (congrArg _ (endCycle_latchCmd h _))

/-- Settles O22: `endCycle_latchCmd` with the port value of Verify. -/
theorem verifyAccepted : Obligations.VerifyAccepted := fun _ _ h =>
  (exec_accept h rfl).trans (congrArg _ (endCycle_latchCmd h _))

/-- Settles O23: `endCycle_latchCmd` with the port value of Quit. -/
theorem quitAccepted : Obligations.QuitAccepted := fun _ h =>
  (exec_accept h rfl).trans (congrArg _ (endCycle_latchCmd h _))

/-- Settles O52: with `rst = 1` the step is the reset edge, and with `rst = 0` the state is a running one. -/
theorem noOtherStop : Obligations.NoOtherStop := by
  intro s hd h
  cases hr : s.inputNow.rst with
  | true => exact ⟨_, step_reset hr hd⟩
  | false =>
    obtain ⟨hp, hl⟩ := h.resolve_left (by simp [hr])
    exact ⟨_, step_run ((running_iff s).2 ⟨hr, hp, hd⟩) hl⟩

end Sys2Proof.Machine
end

section
/-! The payloads, checksums and frames of the five commands, written out (R100, R104 to R108). -/

namespace Sys2Proof.Machine

/-- Settles O2: `encode` is R100 row by row. -/
theorem payloadOfCommand : Obligations.PayloadOfCommand :=
  ⟨rfl, fun _ _ => rfl, fun _ => rfl, fun _ => rfl, rfl⟩

/-- R120, R126: the fold over one part of a payload after the other. -/
theorem checksum_append (p q : List Byte) : checksum (p ++ q) = checksum p ^^^ checksum q := by
  have hassoc := List.foldl_assoc (op := fun a b : Byte => a ^^^ b) (l := q) (a₁ := checksum p) (a₂ := 0)
  simpa [checksum, List.foldl_append] using hassoc

theorem checksum_pair (o p : Byte) : checksum [o, p] = o ^^^ p := by
  rw [← List.singleton_append, checksum_append, checksum_singleton, checksum_singleton]

/-- R105: the opcode and `page_no` are folded before the data. -/
theorem checksum_write (p : Byte) (d : List Byte) : checksum (encode (.write p d)) = 0x11 ^^^ p ^^^ checksum d := by
  rw [encode, checksum_append, checksum_pair]

/-- R106, R107: the frame of a command whose payload is its opcode and `page_no`. -/
theorem frame_of_pair {i : Instr} {o p : Byte} (h : encode i = [o, p]) :
    frame i = header ++ (nibbles o ++ nibbles p ++ nibbles (o ^^^ p)) ++ footer := by
  rw [frame, wrapFrame, nibbleStream, h, checksummed, checksum_pair]
  rfl

/-- Settles O12: the checksums by folding the payload's parts, the frames by writing out their nibbles. -/
theorem commandFrames : Obligations.CommandFrames :=
  ⟨rfl, checksum_write, fun p => ⟨checksum_pair 0x12 p, frame_of_pair (i := .read p) rfl⟩,
    fun p => ⟨checksum_pair 0x13 p, frame_of_pair (i := .verify p) rfl⟩, rfl⟩

end Sys2Proof.Machine
end

section
/-! The frame of one command (R160): until its last byte is sent the block stays busy and accepts nothing, so a run from the
accept to the end of the frame finishes that frame and begins no other. -/

namespace Sys2Proof.Machine

/-! ### The cycles up to the last byte -/

theorem endsFrame_iff (s : State) : s.endsFrame = true ↔ s.fireOut = true ∧ s.phase = .ftr := by
  simp only [State.endsFrame, State.doutLast, Bool.and_eq_true, Bool.not_eq_true', decide_eq_true_eq]
  exact ⟨fun ⟨hf, _, hp⟩ => ⟨hf, hp⟩, fun ⟨hf, hp⟩ => ⟨hf, ((fireOut_iff s).1 hf).1, hp⟩⟩

theorem accepts_of_busy {s : State} (h : s.phase ≠ .idle) : s.accepts = [] := by
  simp [State.accepts, fireCmd_of_busy h]

/-- R151 to R154: only the footer transfer leads to `IDLE`. -/
theorem transferEdge_ne_idle {s : State} (hp : s.phase ≠ .idle) (hftr : s.phase ≠ .ftr) :
    (transferEdge s).phase ≠ .idle := by
  rcases transferEdge_cases s with ⟨-, he⟩ | ⟨-, he⟩ | ⟨-, -, he⟩ | ⟨-, -, he⟩ | ⟨hf, -⟩
  · rwa [he]
  · rw [he, headerEdge_phase]
    split
    · simp
    · exact hp
  · rwa [he, highNibbleEdge_phase]
  · rw [he, lowNibbleEdge_phase]
    exact nextPhase_ne_idle hp
  · exact absurd hf hftr

/-- A busy block stays busy over a cycle in which its frame does not end. -/
theorem step_stays_busy {s t : State} (hp : s.phase ≠ .idle) (hg : s.frameGoesOn = true) (h : step s = .next t) :
    t.phase ≠ .idle := by
  simp only [State.frameGoesOn, State.notReset, Bool.and_eq_true, Bool.not_eq_true'] at hg
  obtain ⟨hr, hend⟩ := hg
  rw [step_busy hr hp h]
  cases hf : s.fireOut with
  | false => exact hp
  | true => exact transferEdge_ne_idle hp fun hftr => by simp [(endsFrame_iff s).2 ⟨hf, hftr⟩] at hend

/-- R154: the cycle that transfers the last byte leaves the block idle. -/
theorem step_endsFrame_idle {s t : State} (he : s.endsFrame = true) (h : step s = .next t) : t.phase = .idle := by
  obtain ⟨hf, hp⟩ := (endsFrame_iff s).1 he
  rw [step_busy ((fireOut_iff s).1 hf).1 (by simp [hp]) h, if_pos hf, transferEdge_ftr hp]
  rfl

/-! ### The run to the end of a frame -/

section
variable {u v t : State} {m : Nat}

theorem FrameEnds.idle (h : FrameEnds u m v t) : t.phase = .idle :=
  step_endsFrame_idle h.last h.final

theorem FrameEnds.runCycles_eq (h : FrameEnds u m v t) : runCycles (m + 1) u = .next t := by
  rw [runCycles_add h.run, runCycles_succ h.final, runCycles_zero]

/-- The frame ends in this cycle, or it goes on and ends from the next state. -/
theorem FrameEnds.next_cycle (h : FrameEnds u (m + 1) v t) :
    u.frameGoesOn = true ∧ ∃ x, step u = .next x ∧ FrameEnds x m v t := by
  obtain ⟨hg, x, hx, hgoes⟩ := along_succ_true h.goesOn
  exact ⟨hg, x, hx, hgoes, (runCycles_succ hx m).symm.trans h.run, h.last, h.final⟩

/-- No reset and no accept, from a busy state to the end of its frame. -/
theorem FrameEnds.no_reset_no_accept (h : FrameEnds u m v t) (hp : u.phase ≠ .idle) :
    along State.notReset (m + 1) u = true ∧ collect State.accepts (m + 1) u = [] := by
  induction m generalizing u with
  | zero =>
    obtain rfl : u = v := Host.Outcome.next.inj h.run
    obtain ⟨hf, -⟩ := (endsFrame_iff u).1 h.last
    have hr : u.notReset = true := by simp [State.notReset, ((fireOut_iff u).1 hf).1]
    exact ⟨by simp [along_succ h.final, hr], by simp [collect_succ h.final, accepts_of_busy hp]⟩
  | succ m ih =>
    obtain ⟨hg, x, hx, hends⟩ := h.next_cycle
    obtain ⟨hreset, hacc⟩ := ih hends (step_stays_busy hp hg hx)
    have hr : u.notReset = true := (Bool.and_eq_true_iff.1 hg).1
    exact ⟨by simp [along_succ hx, hr, hreset], by simp [collect_succ hx, accepts_of_busy hp, hacc]⟩

/-- R160: up to its end a busy block finishes the frame under way, with the bytes it takes, and begins no other. -/
theorem FrameEnds.finishes (h : FrameEnds u m v t) (hs : Counted u) (hp : u.phase ≠ .idle) :
    Finishes (m + 1) u (collect State.takes (m + 1) u) [] := by
  obtain ⟨hreset, hacc⟩ := h.no_reset_no_accept hp
  obtain ⟨d, cs, hfin⟩ := run_finishes hs hreset h.runCycles_eq h.idle
  obtain rfl : cs = [] := List.forall₂_nil_right_iff.1 (hacc ▸ hfin.fits)
  have hd : collect State.takes (m + 1) u = d := by simpa using hfin.takes
  rwa [hd]

end

/-! ### The state after the accept -/

section
variable (i : Instr) (s : State)

/-- The state after the accept of a command (R150). -/
def State.afterAccept : State := endCycle s (clearErrByHost (latchCmd (portOf i s) s))

theorem afterAccept_dinLeft : (s.afterAccept i).dinLeft = (dinBytes i).length := by
  cases i <;> rfl

/-- R150 and R160: what an accept leaves to be sent, with the command's own bytes, is the command's frame. -/
theorem afterAccept_frameLeft : (s.afterAccept i).frameLeft (dinBytes i) = outBytes (frame i) := by
  rw [outBytes_frame]
  cases i <;> rfl

theorem afterAccept_counted (hw : i.wf s.lenW = true) : Counted (s.afterAccept i) := by
  refine ⟨fun _ => rfl, by simp [State.afterAccept], ?_⟩
  cases i with
  | write p d => exact (wf_write_iff s.lenW p d).1 hw
  | ping | read | verify | quit => exact Nat.two_pow_pos _

end

/-- The bytes taken are the command's own: a Write is given them, and the other commands take none. -/
theorem eq_dinBytes {i : Instr} {d : List Byte} (hd : d.length = (dinBytes i).length)
    (hw : ∀ p e, i = .write p e → d = e) : d = dinBytes i := by
  cases i with
  | write p e => exact hw p e rfl
  | ping | read | verify | quit => exact List.eq_nil_of_length_eq_zero hd

/-- Settles O24: the run from the accept finishes the frame that the accept began, and that is the command's frame. -/
theorem commandSendsItsFrame : Obligations.CommandSendsItsFrame := by
  intro i s _ hacc hw
  obtain ⟨-, hidle, -⟩ := (canAccept_iff s).1 hacc
  refine ⟨s.afterAccept i, exec_accept hacc hw, rfl, by simp [State.sends, fireOut_of_idle hidle], ?_⟩
  intro m v t hends hdata
  have hfin := hends.finishes (afterAccept_counted i s hw) (by simp [State.afterAccept])
  have htakes := eq_dinBytes (hfin.count.trans (afterAccept_dinLeft i s)) hdata
  refine ⟨?_, htakes, hends.idle⟩
  calc collect State.sends (m + 1) (s.afterAccept i)
      = (s.afterAccept i).frameLeft (dinBytes i) := by simpa [htakes] using hfin.sends
    _ = outBytes (frame i) := afterAccept_frameLeft i s

end Sys2Proof.Machine
end

section
/-! The laws of the frame level (R120, R122, R126, R129 to R133): what the XOR fold and the split into nibbles keep, and what is
read back from a frame. -/

namespace Sys2Proof.Machine

/-! ### The XOR fold -/

/-- R126: the fold does not depend on the order of the bytes. -/
theorem checksum_perm {p q : List Byte} (h : p.Perm q) : checksum p = checksum q :=
  h.foldl_eq' (fun a _ b _ c => by rw [BitVec.xor_assoc, BitVec.xor_assoc, BitVec.xor_comm a b]) 0x00

/-- R132: with its checksum after it a payload folds to 0x00. -/
theorem checksum_checksummed (p : List Byte) : checksum (checksummed p) = 0x00 :=
  (checksum_concat p (checksum p)).trans BitVec.xor_self

theorem checksummed_take (p : List Byte) : (checksummed p).take p.length = p := List.take_left

theorem checksummed_drop (p : List Byte) : (checksummed p).drop p.length = [checksum p] := List.drop_left

theorem checksummed_getElem?_last (p : List Byte) : (checksummed p)[p.length]? = some (checksum p) :=
  List.getElem?_concat_length

/-- Settles O8: the order does not matter because XOR is commutative and associative. -/
theorem checksumIsXorFold : Obligations.ChecksumIsXorFold :=
  ⟨fun _ => rfl, fun _ => rfl, checksum_append, checksum_singleton, fun _ _ => checksum_perm⟩

/-! ### The nibbles of a byte -/

theorem hiNibble_eq_extractLsb' (b : Byte) : hiNibble b = (b.extractLsb' 4 4).setWidth 8 := by
  revert b; decide

theorem loNibble_eq_extractLsb' (b : Byte) : loNibble b = (b.extractLsb' 0 4).setWidth 8 := by
  revert b; decide

/-- R130: a byte of at most 15 has no bit in its high nibble. -/
theorem extractLsb'_high_eq_zero {b : Byte} (h : b.toNat < 16) : b.extractLsb' 4 4 = 0 := by
  apply BitVec.eq_of_toNat_eq
  rw [BitVec.extractLsb'_toNat, Nat.shiftRight_eq_div_pow, Nat.div_eq_of_lt h]
  rfl

/-- Settles O9: the nibbles are bits 7:4 and 3:0, and they join to the byte. -/
theorem nibbleSplit : Obligations.NibbleSplit := fun b =>
  ⟨rfl, hiNibble_eq_extractLsb' b, loNibble_eq_extractLsb' b, Nat.le_of_lt_succ (hiNibble_lt b),
    Nat.le_of_lt_succ (loNibble_lt b), (hiNibble_or_loNibble b).symm⟩

/-! ### The laws of a frame -/

/-- Settles O11: a frame is the header, the nibbles and the footer, in this order. -/
theorem headerAndFooter : Obligations.HeaderAndFooter :=
  fun _ => ⟨rfl, List.getLast?_concat⟩

/-- Settles O13: an index between header and footer is that of a nibble. -/
theorem nibbleRange : Obligations.NibbleRange := by
  intro i k b hk hlast hb
  have hlt : b.toNat < 16 := by
    rcases frame_byte_cases hb with ⟨hheader, -⟩ | ⟨-, -, hnibble⟩ | ⟨hfooter, -⟩
    · omega
    · exact hnibble
    · omega
  exact ⟨Nat.le_of_lt_succ hlt, extractLsb'_high_eq_zero hlt⟩

/-- Settles O14: the bytes reassembled from a frame are the checksummed payload. -/
theorem roundTrip : Obligations.RoundTrip := by
  intro i n R
  have hR : R = checksummed (encode i) := reassemble_frame i
  rw [hR]
  exact ⟨checksummed_take _, checksummed_drop _⟩

/-- Settles O15: the bytes reassembled from a frame are the checksummed payload, and that folds to 0x00. -/
theorem checksumLaw : Obligations.ChecksumLaw := by
  intro i n R
  have hR : R = checksummed (encode i) := reassemble_frame i
  rw [hR, checksummed_take]
  exact ⟨checksummed_getElem?_last _, checksum_checksummed _⟩

/-- Settles O16: the payload is read back from the frame, and the command from the payload. -/
theorem framesAreInjective : Obligations.FramesAreInjective := fun _ _ h => frame_injective h

end Sys2Proof.Machine
end

section
/-! The invariants of the sequencer (R157): every edge keeps them, by what each of them says in the phase after the edge. -/

namespace Sys2Proof.Machine

/-! ### What the invariants read -/

/-- R142: between the two nibbles of a byte none is taken. -/
theorem fireIn_of_nib {s : State} (h : s.nib = true) : s.fireIn = false := by
  simp [State.fireIn, State.dinReady, h]

theorem fireIn_of_not_fireOut {s : State} (h : s.fireOut = false) : s.fireIn = false :=
  Bool.eq_false_of_not_eq_true fun hi => by simp [fireOut_of_fireIn hi] at h

/-- The invariants are about the registers, `LEN_W` and the bytes taken only. -/
theorem SeqInv.of_sameRegisters {s t : State} (h : SeqInv s) (hregs : sameRegisters s t) (hw : t.lenW = s.lenW)
    (htaken : t.taken = s.taken) : SeqInv t := by
  obtain ⟨hphase, hhidx, hnib, hkind, hpage, hrem, hhold, hcsum⟩ := hregs
  obtain ⟨phase, hidx, nib, kind, pageNo, remaining, hold, csum, err, lenW, inputs, dinOffer, sent, taken, draws⟩ := t
  subst hphase hhidx hnib hkind hpage hrem hhold hcsum hw htaken
  exact { h with }

/-- The end of a cycle keeps the invariants of its edge `u`, with the byte that the cycle takes. -/
theorem seqInv_endCycle {s u : State} (h : SeqInv { u with taken := u.taken ++ s.takes }) :
    SeqInv (endCycle s (clearErrByHost u)) := by
  refine h.of_sameRegisters ⟨rfl, rfl, rfl, rfl, rfl, rfl, rfl, rfl⟩ rfl ?_
  rw [endCycle_taken, State.takes]
  split <;> simp

/-- The end of a cycle that takes no byte. -/
theorem seqInv_endCycle_of_not_fireIn {s u : State} (hi : s.fireIn = false) (h : SeqInv u) :
    SeqInv (endCycle s (clearErrByHost u)) :=
  seqInv_endCycle (by simpa [takes_of_not_fireIn hi] using h)

/-! ### The accept (R150) -/

theorem latchCmd_seqInv {s : State} {pc : PortCmd} (hk : legalTag pc.kind = true) (hw : 1 ≤ s.lenW)
    (hl : pc.kind = 1 → pc.len < 2 ^ s.lenW) : SeqInv (latchCmd pc s) := by
  have hrem : (if pc.kind = 1 then pc.len else 0) < 2 ^ s.lenW := by
    split
    case isTrue hk1 => exact hl hk1
    case isFalse => exact Nat.two_pow_pos _
  constructor
  case kind_legal => exact fun _ => (legalTag_iff _).1 hk
  case remaining_zero => exact fun _ hne => if_neg hne
  case csum_passed => exact fun _ => rfl
  case lenW_pos => exact hw
  case remaining_width => exact hrem
  all_goals simp

/-! ### The payload multiplexer (R141) and the phase successor (R153) -/

section
variable {s : State}

theorem cur_opc (h : s.phase = .opc) : s.cur = opcodeOfTag s.kind := by simp [State.cur, h]
theorem cur_pno (h : s.phase = .pno) : s.cur = s.pageNo := by simp [State.cur, h]
theorem cur_data (h : s.phase = .data) : s.cur = s.inputNow.dinData := by simp [State.cur, h]
theorem cur_csum (h : s.phase = .csum) : s.cur = s.csum := by simp [State.cur, h]

end

/-- R153: the phase after each of the four phases in which nibbles are sent. -/
theorem nextPhase_cases {ph : Phase} (k : BitVec 3) (r : Nat) (hp : ph = .opc ∨ ph = .pno ∨ ph = .data ∨ ph = .csum) :
    (ph = .opc ∧ hasPageNo k = true ∧ nextPhase ph k r = .pno) ∨
    ((ph = .pno ∧ k = 1 ∨ ph = .data) ∧ r ≠ 0 ∧ nextPhase ph k r = .data) ∨
    ((ph = .opc ∧ hasPageNo k = false ∨ ph = .pno ∨ ph = .data) ∧ nextPhase ph k r = .csum) ∨
    (ph = .csum ∧ nextPhase ph k r = .ftr) := by
  rcases hp with rfl | rfl | rfl | rfl
  · cases hk : hasPageNo k <;> simp [nextPhase, hk]
  · by_cases hw : k = 1 ∧ r ≠ 0
    · exact .inr (.inl ⟨.inl ⟨rfl, hw.1⟩, hw.2, if_pos hw⟩)
    · exact .inr (.inr (.inl ⟨.inr (.inl rfl), if_neg hw⟩))
  · by_cases hw : r = 0 <;> simp [nextPhase, hw]
  · simp [nextPhase]

/-! ### The output transfers (R151 to R154) -/

/-- The registers after the transfer of a high nibble, with the record of the byte that it takes in `DATA` (R152). -/
def State.afterHighNibble (s : State) : State := { highNibbleEdge s with taken := s.taken ++ s.takes }

/-- R157, 8: the byte whose high nibble is sent has passed; the checksum is no payload byte. -/
theorem passed_afterHighNibble {s : State} (hf : s.fireOut = true)
    (hp : s.phase = .opc ∨ s.phase = .pno ∨ s.phase = .data ∨ s.phase = .csum) (hn : s.nib = false) :
    s.afterHighNibble.passed = if s.phase = .csum then s.passed else s.passed ++ [s.cur] := by
  rcases hp with hp | hp | hp | hp
  case inr.inr.inl =>
    simp [State.afterHighNibble, State.passed, State.cur, State.takes, fireIn_of_fireOut hf hp hn, hp]
  all_goals
    have htakes := takes_of_not_fireIn (fireIn_of_ne_data (s := s) (by simp [hp]))
    simp [State.afterHighNibble, State.passed, State.cur, State.commandInProgress, htakes, hp, hn]

section
variable {s : State} (h : SeqInv s)
include h

/-- R151: the last header transfer enters `OPC` with nothing passed yet; the others change `hidx` only. -/
theorem headerEdge_seqInv (hp : s.phase = .hdr) : SeqInv (headerEdge s) := by
  have hb : s.phase ≠ .idle := by simp [hp]
  have hn : s.nib = false := h.nib_high (.inr (.inl hp))
  have hc : s.csum = 0 := by simpa [State.passed, hp] using h.csum_passed hb
  unfold headerEdge
  split
  · exact { h with
      phase_reachable := by simp
      nib_high := fun _ => hn
      hidx_zero := fun _ => rfl
      kind_legal := fun _ => h.kind_legal hb
      pno_kind := by simp
      data_kind := by simp
      data_remaining := by simp
      remaining_zero := fun _ => h.remaining_zero hb
      csum_passed := fun _ => by simp [State.passed, hn, hc]
      taken_nil := fun _ _ => h.taken_nil hb (.inr (.inl hp))
      hold_opcode := by simp [hn]
      hold_pageNo := by simp
      hold_data := by simp
      hold_csum := by simp }
  · exact { h with hidx_zero := fun hne => absurd hp hne }

/-- R26, R158: the decrement keeps the width. -/
theorem highNibbleEdge_remaining_lt : (highNibbleEdge s).remaining < 2 ^ s.lenW := by
  rw [highNibbleEdge_remaining]
  split
  · exact Nat.mod_lt _ (Nat.two_pow_pos _)
  · exact h.remaining_width

theorem afterHighNibble_seqInv (hf : s.fireOut = true)
    (hp : s.phase = .opc ∨ s.phase = .pno ∨ s.phase = .data ∨ s.phase = .csum) (hn : s.nib = false) :
    SeqInv s.afterHighNibble := by
  have hb := (ne_idle_and_ne_ftr hp).1
  have hkind : s.kind ≠ 1 → s.phase ≠ .data := fun hk hd => hk (h.data_kind hd)
  have htaken : s.phase ≠ .data → s.afterHighNibble.taken = s.taken := fun hd => by
    simp [State.afterHighNibble, takes_of_not_fireIn (fireIn_of_ne_data hd)]
  exact { h with
    nib_high := fun hq => absurd hq (by rcases hp with hp | hp | hp | hp <;> simp [State.afterHighNibble, hp])
    data_remaining := fun _ hu => by cases hu
    remaining_zero := fun _ hk => (if_neg (hkind hk)).trans (h.remaining_zero hb hk)
    csum_passed := fun _ => by
      rw [passed_afterHighNibble hf hp hn]
      change (if s.phase = .csum then s.csum else s.csum ^^^ s.cur) = _
      split
      · exact h.csum_passed hb
      · rw [checksum_concat, h.csum_passed hb]
    remaining_width := highNibbleEdge_remaining_lt h
    taken_nil := fun _ (hq : s.kind ≠ 1 ∨ s.phase = .hdr ∨ s.phase = .opc ∨ s.phase = .pno) => by
      have hd : s.phase ≠ .data := fun hd => by simp [hd, h.data_kind hd] at hq
      exact (htaken hd).trans (h.taken_nil hb hq)
    hold_opcode := fun hq _ => cur_opc hq
    hold_pageNo := fun hq _ => cur_pno hq
    hold_data := fun (hq : s.phase = .data) _ => by
      change (s.taken ++ s.takes).getLast? = some s.cur
      rw [cur_data hq, State.takes, if_pos (fireIn_of_fireOut hf hq hn), List.getLast?_concat]
    hold_csum := fun (hq : s.phase = .csum) _ => (cur_csum hq).trans (if_pos hq).symm }

/-- R100: the payload of the command in progress, of which all `page_data` bytes are taken. -/
theorem encode_commandInProgress (hp : s.phase ≠ .idle) :
    s.commandInProgress.elim [] encode = opcodeOfTag s.kind :: (s.pageNoField ++ s.taken) := by
  have ht : s.kind ≠ 1 → s.taken = [] := fun hk => h.taken_nil hp (.inl hk)
  rcases legalTag_cases s.kind ((legalTag_iff _).2 (h.kind_legal hp)) with hk | hk | hk | hk | hk <;>
    simp_all [State.commandInProgress, State.pageNoField, hasPageNo, encode]

/-- R157, 8: a low nibble changes nothing of what has passed. -/
theorem passed_lowNibbleEdge (hp : s.phase = .opc ∨ s.phase = .pno ∨ s.phase = .data ∨ s.phase = .csum)
    (hn : s.nib = true) : (lowNibbleEdge s).passed = s.passed := by
  have henc := encode_commandInProgress h (ne_idle_and_ne_ftr hp).1
  have hkeep : s.phase = .opc ∨ s.phase = .pno → s.taken = [] := fun hq =>
    h.taken_nil (ne_idle_and_ne_ftr hp).1 (by tauto)
  have hu : lowNibbleEdge s = { s with nib := false, phase := nextPhase s.phase s.kind s.remaining } := rfl
  rcases nextPhase_cases s.kind s.remaining hp with ⟨hq, hk, he⟩ | ⟨hq, -, he⟩ | ⟨hq, he⟩ | ⟨hq, he⟩ <;>
    rw [hu, he]
  · simp [State.passed, hq, hn]
  · rcases hq with ⟨hq, -⟩ | hq
    · simp [State.passed, hq, hn, hkeep]
    · simp [State.passed, hq]
  · refine henc.trans ?_
    rcases hq with ⟨hq, hk⟩ | hq | hq
    · simp [State.passed, hq, hn, hkeep, State.pageNoField, hk]
    · simp [State.passed, hq, hn, hkeep, State.pageNoField, pnoHasPageNo_of_inv h hq]
    · simp [State.passed, hq, State.pageNoField, h.data_kind hq, hasPageNo]
  · have hpassed : s.passed = s.commandInProgress.elim [] encode := by simp [State.passed, hq]
    exact hpassed.symm

theorem lowNibbleEdge_seqInv (hp : s.phase = .opc ∨ s.phase = .pno ∨ s.phase = .data ∨ s.phase = .csum)
    (hn : s.nib = true) : SeqInv (lowNibbleEdge s) := by
  have hb := (ne_idle_and_ne_ftr hp).1
  have hnot : s.phase ≠ .hdr := by rcases hp with hp | hp | hp | hp <;> simp [hp]
  have hcsum : s.csum = checksum (lowNibbleEdge s).passed := by
    rw [passed_lowNibbleEdge h hp hn]
    exact h.csum_passed hb
  have hnext := nextPhase_cases s.kind s.remaining hp
  exact { h with
    phase_reachable := by rcases hnext with ⟨-, -, he⟩ | ⟨-, -, he⟩ | ⟨-, he⟩ | ⟨-, he⟩ <;> simp [he]
    nib_high := fun _ => rfl
    hidx_zero := fun _ => h.hidx_zero hnot
    kind_legal := fun _ => h.kind_legal hb
    pno_kind := fun hq => by simpa [hasPageNo, or_assoc] using nextPhase_eq_pno hq
    data_kind := fun hq => by
      rcases hnext with ⟨-, -, he⟩ | ⟨hk, -⟩ | ⟨-, he⟩ | ⟨-, he⟩
      case inr.inl => exact hk.elim And.right h.data_kind
      all_goals simp [he] at hq
    data_remaining := fun hq _ => Nat.one_le_iff_ne_zero.2 (nextPhase_data hq)
    remaining_zero := fun _ => h.remaining_zero hb
    csum_passed := fun _ => hcsum
    taken_nil := fun _ hq => h.taken_nil hb <| by
      rcases hnext with ⟨ho, -⟩ | ⟨-, -, he⟩ | ⟨-, he⟩ | ⟨-, he⟩
      case inl => exact .inr (.inr (.inl ho))
      all_goals exact .inl (by simpa [he] using hq)
    hold_opcode := fun _ hu => by cases hu
    hold_pageNo := fun _ hu => by cases hu
    hold_data := fun _ hu => by cases hu
    hold_csum := fun _ hu => by cases hu }

/-- R154: back in `IDLE` nothing is asked of the frame. -/
theorem footerEdge_seqInv (hp : s.phase = .ftr) : SeqInv (footerEdge s) :=
  seqInv_of_idle rfl (h.hidx_zero (by simp [hp])) (h.nib_high (by simp [hp])) h.lenW_pos h.remaining_width

/-- R151 to R154: an output transfer, with the byte that its cycle takes. -/
theorem transferEdge_seqInv (hf : s.fireOut = true) : SeqInv (endCycle s (clearErrByHost (transferEdge s))) := by
  rcases transferEdge_cases s with ⟨hp | hp, -⟩ | ⟨hp, he⟩ | ⟨hp, hn, he⟩ | ⟨hp, hn, he⟩ | ⟨hp, he⟩
  · simp [fireOut_of_idle hp] at hf
  · exact absurd hp h.phase_reachable
  · rw [he]
    exact seqInv_endCycle_of_not_fireIn (fireIn_of_ne_data (by simp [hp])) (headerEdge_seqInv h hp)
  · rw [he]
    exact seqInv_endCycle (afterHighNibble_seqInv h hf hp hn)
  · rw [he]
    exact seqInv_endCycle_of_not_fireIn (fireIn_of_nib hn) (lowNibbleEdge_seqInv h hp hn)
  · rw [he]
    exact seqInv_endCycle_of_not_fireIn (fireIn_of_ne_data (by simp [hp])) (footerEdge_seqInv h hp)

end

/-! ### Every step -/

theorem step_reset_seqInv {s t : State} (hw : 1 ≤ s.lenW) (hr : s.inputNow.rst = true) (h : step s = .next t) :
    SeqInv t := by
  rw [step_reset_next hr h]
  exact seqInv_of_idle rfl rfl rfl hw (Nat.mod_lt _ (Nat.two_pow_pos _))

/-- R150: an accept establishes the invariants of `HDR`. -/
theorem accept_seqInv {s : State} {pc : PortCmd} (hp : s.phase = .idle) (hk : legalTag pc.kind = true) (hw : 1 ≤ s.lenW)
    (hl : pc.kind = 1 → pc.len < 2 ^ s.lenW) : SeqInv (endCycle s (clearErrByHost (latchCmd pc s))) :=
  seqInv_endCycle_of_not_fireIn (fireIn_of_ne_data (by simp [hp])) (latchCmd_seqInv hk hw hl)

/-- R157: every step keeps the invariants. -/
theorem step_seqInv {s t : State} (hs : SeqInv s) (h : step s = .next t) : SeqInv t := by
  cases hr : s.inputNow.rst with
  | true => exact step_reset_seqInv hs.lenW_pos hr h
  | false =>
    rcases step_run_cases hr h with ⟨hc, hk, rfl⟩ | ⟨hc, -, rfl⟩ | ⟨-, hf, rfl⟩ | ⟨-, hf, rfl⟩
    · exact accept_seqInv ((fireCmd_iff s).1 hc).2.1 hk hs.lenW_pos (step_presentable hr h hc)
    · refine hs.of_sameRegisters ⟨rfl, rfl, rfl, rfl, rfl, rfl, rfl, rfl⟩ rfl ?_
      simp [fireIn_of_fireCmd hc]
    · exact transferEdge_seqInv hs hf
    · exact seqInv_endCycle_of_not_fireIn (fireIn_of_not_fireOut hf) hs

/-- R157, 93 U4: `phase = 7` faults, whatever is on offer. -/
theorem cycle_unreachable {s : State} (hp : s.phase = .unreachable) (hr : s.inputNow.rst = false)
    (offer : Option PortCmd) : cycle offer s = .fault .phaseUnreachable :=
  if_pos ⟨hr, hp⟩

/-- Settles O53: a reset edge leaves an idle state, and every edge keeps the invariants by the lemmas above. -/
theorem invariantsKept : Obligations.InvariantsKept := by
  refine ⟨fun s t hw hr h => step_reset_seqInv hw hr h, fun s t hs h => step_seqInv hs h,
    fun s hp hr => ⟨?_, fun i => ?_⟩⟩
  · rw [step_eq_cycle, cycle_unreachable hp hr]
  · rw [exec_eq_cycle, cycle_unreachable hp hr]

end Sys2Proof.Machine
end

section
/-! The edges of the sequencer one by one (R150 to R155): what the cycle sends, and the registers after it. -/

namespace Sys2Proof.Machine

/-! ### What a cycle sends -/

theorem sends_of_not_fireOut {s : State} (h : s.fireOut = false) : s.sends = [] := by
  simp [State.sends, h]

section
variable {s : State} (hf : s.fireOut = true)
include hf

theorem phase_ne_idle_of_fireOut : s.phase ≠ .idle := fun hp => by
  simp [fireOut_of_idle hp] at hf

theorem doutLast_eq_of_fireOut : s.doutLast = decide (s.phase = .ftr) := by
  simp [State.doutLast, ((fireOut_iff s).1 hf).1]

theorem sends_of_fireOut : s.sends = [⟨s.doutData, decide (s.phase = .ftr)⟩] := by
  rw [State.sends, if_pos hf, State.outByte, doutLast_eq_of_fireOut hf]

/-- R151: a header transfer sends the header byte of `hidx`. -/
theorem sends_hdr (hp : s.phase = .hdr) : s.sends = [⟨headerByte s.hidx, false⟩] := by
  rw [sends_of_fireOut hf, State.doutData, if_pos (doutValid_of_fireOut hf), hp]
  rfl

theorem sends_nibble (hp : s.phase = .opc ∨ s.phase = .pno ∨ s.phase = .data ∨ s.phase = .csum) :
    s.sends = [⟨s.nibbleByte, false⟩] := by
  rw [sends_of_fireOut hf, doutData_nibble hf hp, decide_eq_false (ne_idle_and_ne_ftr hp).2]

/-- R154: the footer transfer sends 0xF7 as the last byte. -/
theorem sends_ftr (hp : s.phase = .ftr) : s.sends = [⟨0xF7, true⟩] := by
  rw [sends_of_fireOut hf, State.doutData, if_pos (doutValid_of_fireOut hf), hp]
  rfl

/-- The next state of a cycle with an output transfer (R151 to R154). -/
theorem step_transfer {t : State} (h : step s = .next t) : t = endCycle s (clearErrByHost (transferEdge s)) := by
  rw [step_busy ((fireOut_iff s).1 hf).1 (phase_ne_idle_of_fireOut hf) h, if_pos hf]

end

/-! ### A cycle without a transfer (R155) -/

section
variable {s t : State} (hr : s.inputNow.rst = false) (hc : s.fireCmd = false) (hf : s.fireOut = false)
include hr hc hf

theorem step_stall (h : step s = .next t) : t = endCycle s (clearErrByHost s) := by
  rcases step_run_cases hr h with ⟨hc', -⟩ | ⟨hc', -⟩ | ⟨-, hf', -⟩ | ⟨-, -, ht⟩
  · simp [hc] at hc'
  · simp [hc] at hc'
  · simp [hf] at hf'
  · exact ht

theorem step_stall_sameRegisters (h : step s = .next t) : sameRegisters s t := by
  rw [step_stall hr hc hf h]
  exact ⟨rfl, rfl, rfl, rfl, rfl, rfl, rfl, rfl⟩

end

/-- Settles O41: the state after a stall is that of `step_stall`, and an input transfer would be an output transfer too. -/
theorem stall : Obligations.Stall := by
  intro s t hr hc hf h
  refine ⟨step_stall_sameRegisters hr hc hf h, ?_, sends_of_not_fireOut hf, takes_of_not_fireIn (fireIn_of_not_fireOut hf)⟩
  rw [step_stall hr hc hf h]
  rfl

/-! ### The accept (R150) -/

theorem sends_of_fireCmd {s : State} (hc : s.fireCmd = true) : s.sends = [] :=
  sends_of_not_fireOut (fireOut_of_idle ((fireCmd_iff s).1 hc).2.1)

theorem doutValid_of_idle {s : State} (hp : s.phase = .idle) : s.doutValid = false := by
  simp [State.doutValid, State.offersByte, hp]

/-- An accept with a length that the port can carry has a next state. -/
theorem exists_step_of_fireCmd {s : State} (hc : s.fireCmd = true) (hd : s.dinStable = true)
    (hl : s.inputNow.cmdKind = 1 → s.inputNow.cmdLen < 2 ^ s.lenW) : ∃ t, step s = .next t := by
  obtain ⟨hr, hp, -⟩ := (fireCmd_iff s).1 hc
  exact ⟨_, step_run ((running_iff s).2 ⟨hr, by simp [hp], hd⟩) hl⟩

/-- Settles O36: the next state is `latchCmd` of the port for a legal tag, and only `err` changes for a reserved one. -/
theorem acceptEdge : Obligations.AcceptEdge := by
  refine ⟨fun s hc => doutValid_of_idle ((fireCmd_iff s).1 hc).2.1, fun s hp hc hd hk hl => ?legal,
    fun s hp hc hd hk => ?reserved⟩
  case legal =>
    obtain ⟨t, ht⟩ := exists_step_of_fireCmd hc hd hl
    refine ⟨t, ht, ?_⟩
    rw [step_accept hc ((legalTag_iff _).2 hk) ht]
    exact ⟨rfl, rfl, rfl, rfl, rfl, rfl, rfl, rfl, sends_of_fireCmd hc⟩
  case reserved =>
    have hne : s.inputNow.cmdKind ≠ 1 := fun h1 => by simp [h1] at hk
    obtain ⟨t, ht⟩ := exists_step_of_fireCmd hc hd fun h1 => absurd h1 hne
    refine ⟨t, ht, ?_⟩
    rw [step_illegal hc ((legalTag_eq_false_iff _).2 hk) ht]
    exact ⟨⟨rfl, rfl, rfl, rfl, rfl, rfl, rfl, rfl⟩, hp, rfl, sends_of_fireCmd hc⟩

/-! ### High nibbles (R152) -/

/-- R12: the decrement modulo `2 ^ LEN_W`. -/
theorem decLen_eq {w r : Nat} (hw : r < 2 ^ w) : decLen w r = if r = 0 then 2 ^ w - 1 else r - 1 := by
  split
  case isTrue h0 =>
    rw [h0, decLen, Nat.zero_add, Nat.mod_eq_of_lt (by omega)]
  case isFalse h0 =>
    have := decLen_add_one (Nat.one_le_iff_ne_zero.2 h0) hw
    omega

theorem fireIn_eq_of_high {s : State} (hf : s.fireOut = true) (hn : s.nib = false) :
    s.fireIn = decide (s.phase = .data) := by
  by_cases hp : s.phase = .data
  · rw [fireIn_of_fireOut hf hp hn, decide_eq_true hp]
  · rw [fireIn_of_ne_data hp, decide_eq_false hp]

theorem step_high {s t : State} (hp : s.phase = .opc ∨ s.phase = .pno ∨ s.phase = .data ∨ s.phase = .csum)
    (hn : s.nib = false) (hf : s.fireOut = true) (h : step s = .next t) :
    t = endCycle s (clearErrByHost (highNibbleEdge s)) ∧ s.sends = [⟨hiNibble s.cur, false⟩] := by
  rw [step_transfer hf h, sends_nibble hf hp, transferEdge_nibble hp, State.nibbleByte, hn]
  exact ⟨rfl, rfl⟩

/-! ### Low nibbles (R153) -/

theorem step_low {s t : State} (hp : s.phase = .opc ∨ s.phase = .pno ∨ s.phase = .data ∨ s.phase = .csum)
    (hn : s.nib = true) (hf : s.fireOut = true) (h : step s = .next t) :
    t = endCycle s (clearErrByHost (lowNibbleEdge s)) ∧ s.sends = [⟨loNibble s.hold, false⟩] := by
  rw [step_transfer hf h, sends_nibble hf hp, transferEdge_nibble hp, State.nibbleByte, hn]
  exact ⟨rfl, rfl⟩

theorem sameRegisters_trans {s t u : State} (hst : sameRegisters s t) (htu : sameRegisters t u) : sameRegisters s u := by
  obtain ⟨hphase, hhidx, hnib, hkind, hpage, hrem, hhold, hcsum⟩ := hst
  obtain ⟨hphase', hhidx', hnib', hkind', hpage', hrem', hhold', hcsum'⟩ := htu
  exact ⟨hphase'.trans hphase, hhidx'.trans hhidx, hnib'.trans hnib, hkind'.trans hkind, hpage'.trans hpage,
    hrem'.trans hrem, hhold'.trans hhold, hcsum'.trans hcsum⟩

/-- A busy block that transfers nothing in this cycle (R155). -/
def State.stalls (s : State) : Bool := s.notReset && !s.fireOut

/-- R155 over any number of cycles: a busy block that transfers nothing keeps its registers. -/
theorem run_stalls {n : Nat} {s u : State} (hp : s.phase ≠ .idle) (ha : along State.stalls n s = true)
    (h : runCycles n s = .next u) :
    sameRegisters s u ∧ collect State.sends n s = [] ∧ collect State.takes n s = [] := by
  induction n generalizing s with
  | zero =>
    obtain rfl := Host.Outcome.next.inj h
    exact ⟨⟨rfl, rfl, rfl, rfl, rfl, rfl, rfl, rfl⟩, rfl, rfl⟩
  | succ n ih =>
    obtain ⟨hs, v, hv, hav⟩ := along_succ_true ha
    simp only [State.stalls, State.notReset, Bool.and_eq_true, Bool.not_eq_true'] at hs
    obtain ⟨hr, hf⟩ := hs
    have hsv := step_stall_sameRegisters hr (fireCmd_of_busy hp) hf hv
    have hpv : v.phase ≠ .idle := hsv.1.symm ▸ hp
    obtain ⟨hvu, hsends, htakes⟩ := ih hpv hav ((runCycles_succ hv n).symm.trans h)
    refine ⟨sameRegisters_trans hsv hvu, ?_, ?_⟩
    · rw [collect_succ hv, hsends, sends_of_not_fireOut hf, List.append_nil]
    · rw [collect_succ hv, htakes, takes_of_not_fireIn (fireIn_of_not_fireOut hf), List.append_nil]

/-! ### Header transfers (R151) -/

section
variable {s t : State} (hp : s.phase = .hdr) (hf : s.fireOut = true) (h : step s = .next t)
include hp hf h

theorem step_hdr_last (hx : s.hidx = 3) : t = endCycle s (clearErrByHost { s with hidx := 0, phase := .opc }) := by
  rw [step_transfer hf h, transferEdge_hdr hp, headerEdge, if_pos hx]

theorem step_hdr_next (hx : s.hidx ≠ 3) : t = endCycle s (clearErrByHost { s with hidx := s.hidx + 1 }) := by
  rw [step_transfer hf h, transferEdge_hdr hp, headerEdge, if_neg hx]

end

theorem hidx_add_one {x : BitVec 2} (h : x ≠ 3) : (x + 1).toNat = x.toNat + 1 := by
  revert x; decide

/-! ### The host's part (R161) -/

theorem hostReady_iff (s : State) :
    s.hostReady = true ↔ s.inputNow.rst = false ∧ s.dinStable = true ∧ s.inputNow.doutReady = true ∧
      (s.phase = .data → s.nib = false → s.inputNow.dinValid = true) := by
  simp only [State.hostReady, State.notReset, Bool.and_eq_true, Bool.not_eq_true', Bool.or_eq_true, and_assoc]
  cases s.nib <;> simp [imp_iff_not_or]

/-- R155, R161: in a phase of the machine a cycle whose host keeps R231 has a next state. -/
theorem exists_step_of_busy {s : State} (hr : s.inputNow.rst = false) (hd : s.dinStable = true) (hp : s.phase ≠ .idle)
    (hu : s.phase ≠ .unreachable) : ∃ t, step s = .next t := by
  rw [step_eq_cycle]
  exact ⟨_, cycle_run ((running_iff s).2 ⟨hr, hu, hd⟩) fun hc => absurd ((cmdReady_iff s).1 hc).2 hp⟩

/-- R161: a busy block whose host does its part transfers a byte. -/
theorem fireOut_of_hostReady {s : State} (h : s.hostReady = true) (hp : s.phase ≠ .idle) (hu : s.phase ≠ .unreachable) :
    s.fireOut = true := by
  obtain ⟨hr, -, ho, hv⟩ := (hostReady_iff s).1 h
  refine (fireOut_iff s).2 ⟨hr, ?_, ho⟩
  unfold State.offersByte
  cases hq : s.phase with
  | idle => exact absurd hq hp
  | unreachable => exact absurd hq hu
  | data => cases hn : s.nib <;> simp_all
  | hdr | opc | pno | csum | ftr => rfl

/-- R161: in a cycle in which the host does its part a busy block has a next state, and it transfers a byte. -/
theorem exists_step_of_hostReady {s : State} (h : s.hostReady = true) (hp : s.phase ≠ .idle)
    (hu : s.phase ≠ .unreachable) : s.fireOut = true ∧ ∃ t, step s = .next t := by
  obtain ⟨hr, hd, -, -⟩ := (hostReady_iff s).1 h
  exact ⟨fireOut_of_hostReady h hp hu, exists_step_of_busy hr hd hp hu⟩

/-- The host does its part in each of the next `n` cycles. -/
def ReadyFor (n : Nat) (s : State) : Prop := ∀ k x, k < n → runCycles k s = .next x → x.hostReady = true

theorem ReadyFor.now {n : Nat} {s : State} (h : ReadyFor (n + 1) s) : s.hostReady = true :=
  h 0 s (Nat.succ_pos n) rfl

theorem ReadyFor.later {n : Nat} {s t : State} (h : ReadyFor (n + 1) s) (ht : step s = .next t) : ReadyFor n t :=
  fun k x hk hx => h (k + 1) x (Nat.succ_lt_succ hk) ((runCycles_succ ht k).trans hx)

/-- R151: at full rate the header bytes from `hidx` on leave in order, and `OPC` follows. -/
theorem run_header {n : Nat} {s : State} (hp : s.phase = .hdr) (hn : s.hidx.toNat + (n + 1) = 4)
    (hready : ReadyFor (n + 1) s) :
    ∃ t, runCycles (n + 1) s = .next t ∧ t.phase = .opc ∧ t.hidx = 0 ∧
      collect State.sends (n + 1) s = (header.drop s.hidx.toNat).map (⟨·, false⟩) := by
  induction n generalizing s with
  | zero =>
    obtain ⟨hf, t, ht⟩ := exists_step_of_hostReady hready.now (by simp [hp]) (by simp [hp])
    have hx : s.hidx = 3 := BitVec.eq_of_toNat_eq (by simpa using hn)
    obtain rfl := step_hdr_last hp hf ht hx
    refine ⟨_, runCycles_succ ht 0, rfl, rfl, ?_⟩
    rw [collect_succ ht, sends_hdr hf hp, hx]
    rfl
  | succ n ih =>
    obtain ⟨hf, u, hu⟩ := exists_step_of_hostReady hready.now (by simp [hp]) (by simp [hp])
    have hx : s.hidx ≠ 3 := fun hx => by
      have h3 : s.hidx.toNat = 3 := by rw [hx]; rfl
      omega
    have hnext := step_hdr_next hp hf hu hx
    have hup : u.phase = .hdr := by rw [hnext]; exact hp
    have hux : u.hidx = s.hidx + 1 := by rw [hnext]; rfl
    have hsucc := hidx_add_one hx
    obtain ⟨t, ht, hphase, hhidx, hsends⟩ := ih hup (by rw [hux, hsucc]; omega) (hready.later hu)
    refine ⟨t, (runCycles_succ hu _).trans ht, hphase, hhidx, ?_⟩
    rw [collect_succ hu, hsends, sends_hdr hf hp, hux, header_drop s.hidx, if_neg hx]
    rfl

end Sys2Proof.Machine

namespace Sys2Proof

open Machine

/-! The statements about one edge each have that edge's name, which in `Machine` is the edge itself. -/

/-- Settles O37: the next state is that of `step_hdr_last` or `step_hdr_next`, and four transfers are `run_header` from the
first byte. -/
theorem headerEdge : Obligations.HeaderEdge := by
  refine ⟨fun s t hp hf h => ?edge, fun s hp hx hready => ?run⟩
  case edge =>
    by_cases hx : s.hidx = 3
    · obtain rfl := step_hdr_last hp hf h hx
      exact ⟨fun _ => ⟨rfl, rfl⟩, fun hne => absurd hx hne, rfl, rfl, rfl, rfl, rfl, rfl⟩
    · obtain rfl := step_hdr_next hp hf h hx
      exact ⟨fun he => absurd he hx, fun _ => ⟨hidx_add_one hx, hp⟩, rfl, rfl, rfl, rfl, rfl, rfl⟩
  case run =>
    obtain ⟨t, ht, hphase, hhidx, hsends⟩ := run_header (n := 3) hp (by rw [hx]; rfl) hready
    exact ⟨t, ht, hphase, hhidx, hsends.trans (by rw [hx]; rfl)⟩

/-- Settles O38: the next state and the byte sent are those of `step_high`. -/
theorem highNibbleEdge : Obligations.HighNibbleEdge := by
  intro s t hp hn hf h
  obtain ⟨rfl, hsends⟩ := step_high hp hn hf h
  exact ⟨rfl, rfl, rfl, fun hd hw => (if_pos hd).trans (decLen_eq hw), fun hd => if_neg hd, rfl, rfl, rfl, rfl,
    fireIn_eq_of_high hf hn, hsends⟩

/-- Settles O39: the next state and the byte sent are those of `step_low`; between the two nibbles of a byte the block only
stalls, which keeps `hold`. -/
theorem lowNibbleEdge : Obligations.LowNibbleEdge := by
  refine ⟨fun s t hp hn hf h => ?edge, fun s t n u hp hn hf h ha hr _ => ?held⟩
  case edge =>
    obtain ⟨rfl, hsends⟩ := step_low hp hn hf h
    refine ⟨rfl, fun hq => ?_, fun hq => ?_, fun hq => ?_, fun hq => ?_, rfl, rfl, rfl, rfl, rfl, rfl, fireIn_of_nib hn,
      hsends⟩
    all_goals simp [hq, nextPhase, hasPageNo, or_assoc]
  case held =>
    obtain ⟨rfl, -⟩ := step_high hp hn hf h
    have hbusy : (endCycle s (clearErrByHost (Machine.highNibbleEdge s))).phase ≠ .idle := (ne_idle_and_ne_ftr hp).1
    obtain ⟨⟨hphase, -, hnib, -, -, -, hhold, -⟩, -, -⟩ := run_stalls hbusy ha hr
    exact ⟨hphase, hnib, hhold⟩

/-- Settles O40: the next state is `IDLE` with the registers kept. -/
theorem footerEdge : Obligations.FooterEdge := by
  intro s t hp hf h
  have hidle : t.phase = .idle := step_endsFrame_idle ((endsFrame_iff s).2 ⟨hf, hp⟩) h
  have hbusy : t.busy = false := decide_eq_false (not_not.2 hidle)
  have hready : t.inputNow.rst = false → t.cmdReady = true := fun hr => (cmdReady_iff t).2 ⟨hr, hidle⟩
  refine ⟨hidle, ?_, ?_, ?_, ?_, ?_, ?_, ?_, sends_ftr hf hp, hbusy, hready⟩
  all_goals
    rw [step_transfer hf h, transferEdge_ftr hp]
    rfl

end Sys2Proof
end

section
/-! From an accept to the end of its frame (R156, R158, R160, R161): what the frame sends and takes, that at full rate it ends
after one cycle per byte, and in which phases its bytes are sent. -/

namespace Sys2Proof.Machine

/-! ### The frame that an accept begins -/

@[simp] theorem outBytes_length (l : List Byte) : (outBytes l).length = l.length := by
  induction l with
  | nil => rfl
  | cons b l ih =>
    cases l with
    | nil => rfl
    | cons c l => simpa [outBytes] using ih

/-- R160: from an accept to the end of its frame the block finishes the frame that the accept began, with the bytes it takes. -/
theorem accept_finishes {s u v t : State} {m : Nat} (hs : SeqInv s) (hc : s.fireCmd = true)
    (hk : legalTag s.inputNow.cmdKind = true) (h : step s = .next u) (hends : FrameEnds u m v t) :
    Finishes (m + 1) u (collect State.takes (m + 1) u) [] := by
  have hcounted := step_counted ((fireCmd_iff s).1 hc).1 h (counted_of_inv hs)
  have hbusy : u.phase ≠ .idle := by simp [step_accept hc hk h]
  exact hends.finishes hcounted hbusy

/-- Settles O56: the run finishes the frame that `step_accept_frame` begins, whose command the port values decode to. -/
theorem frameEquivalence : Obligations.FrameEquivalence := by
  intro s u m v t hs _ hc hk h hends
  replace hk := (legalTag_iff _).2 hk
  have hfin := accept_finishes hs hc hk h hends
  obtain ⟨c, hfits, hwf, hdin, hframe⟩ := step_accept_frame ((fireCmd_iff s).1 hc).1 h hc hk hfin.count
  refine ⟨c, ?_, ?_, ?_, by rw [hdin], hends.idle⟩
  · rw [← hdin]
    exact decodePort_of_fits hwf hfits
  · simpa [hframe] using hfin.sends
  · rw [frame_length, encode_length, Nat.add_comm]

/-! ### The counter (R158) -/

/-- R158: what an accept leaves to be taken. -/
theorem accept_dinLeft {s u : State} (hc : s.fireCmd = true) (hk : legalTag s.inputNow.cmdKind = true)
    (h : step s = .next u) :
    u.remaining = (if s.inputNow.cmdKind = 1 then s.inputNow.cmdLen else 0) ∧
      u.dinLeft = if s.inputNow.cmdKind = 1 then s.inputNow.cmdLen else 0 := by
  obtain rfl := step_accept hc hk h
  refine ⟨rfl, ?_⟩
  change (if s.inputNow.cmdKind = 1 then if s.inputNow.cmdKind = 1 then s.inputNow.cmdLen else 0 else 0) = _
  split <;> rfl

/-- R158: `DATA` is entered only at the transfer of a low nibble, and only while bytes remain. -/
theorem transferEdge_enters_data {s : State} (h : (transferEdge s).phase = .data) (hs : s.phase ≠ .data ∨ s.nib = true) :
    s.remaining ≠ 0 := by
  rcases transferEdge_cases s with ⟨hp, he⟩ | ⟨hp, he⟩ | ⟨-, hn, he⟩ | ⟨-, -, he⟩ | ⟨hp, he⟩ <;> rw [he] at h
  · rcases hp with hp | hp <;> simp [hp] at h
  · rw [headerEdge_phase, hp] at h
    split at h <;> cases h
  · rw [highNibbleEdge_phase] at h
    simp [h, hn] at hs
  · exact nextPhase_data h
  · simp at h

/-- Settles O54: the counter is not 0 in the cycle of an input transfer, `transferEdge_enters_data`, and the count of
`accept_finishes`. -/
theorem counterSafety : Obligations.CounterSafety := by
  refine ⟨fun s t hs hi h => ?decrement, fun s t h ht hs => ?entry, fun s u m v t hs hc hk h hends => ?total⟩
  case decrement =>
    obtain ⟨-, hp, hn, -, -⟩ := (fireIn_iff s).1 hi
    obtain ⟨rfl, -⟩ := step_high (.inr (.inr (.inl hp))) hn (fireOut_of_fireIn hi) h
    rw [endCycle_remaining, clearErrByHost_remaining, highNibbleEdge_remaining, if_pos hp]
    exact decLen_add_one (hs.data_remaining hp hn) hs.remaining_width
  case entry =>
    cases hr : s.inputNow.rst with
    | true => simp [step_reset_next hr h] at ht
    | false =>
      rcases step_run_cases hr h with ⟨-, -, rfl⟩ | ⟨hc, -, rfl⟩ | ⟨-, -, rfl⟩ | ⟨-, hf, rfl⟩
      · simp at ht
      · simp [((fireCmd_iff s).1 hc).2.1] at ht
      · exact transferEdge_enters_data ht (hs.imp_right And.left)
      · exact absurd ht (hs.resolve_right (by simp [hf]))
  case total =>
    replace hk := (legalTag_iff _).2 hk
    obtain ⟨hrem, hleft⟩ := accept_dinLeft hc hk h
    exact ⟨hrem, (accept_finishes hs hc hk h hends).count.trans hleft⟩

/-! ### One byte a cycle (R161) -/

/-- The frame under way still sends `n` bytes, whatever the `page_data` bytes are that it still takes. -/
def State.SendsYet (s : State) (n : Nat) : Prop := ∀ d, d.length = s.dinLeft → (s.frameLeft d).length = n

/-- A state with a byte still to be sent is busy, and a busy one has its footer still to be sent. -/
theorem State.SendsYet.pos_iff_busy {s : State} {n : Nat} (h : s.SendsYet n) : 0 < n ↔ s.phase ≠ .idle := by
  have hn := h (List.replicate s.dinLeft 0) (List.length_replicate ..)
  rw [State.frameLeft] at hn
  split at hn
  case isTrue hp => simp [← hn, hp]
  case isFalse hp => simp [← hn, hp, endFrame]

/-- A cycle that transfers a byte leaves one byte less to be sent. -/
theorem State.SendsYet.step_transfer {s u : State} {n : Nat} (h : s.SendsYet (n + 1)) (hs : Counted s)
    (hf : s.fireOut = true) (hu : step s = .next u) : u.SendsYet n := by
  intro d hd
  have ha := accepts_of_busy (phase_ne_idle_of_fireOut hf)
  obtain ⟨hcount, hframe⟩ := step_frameGoesOn ((fireOut_iff s).1 hf).1 hu hs ha hd
  have hlen := h _ hcount
  rw [hframe, sends_of_fireOut hf] at hlen
  simpa using hlen

/-- A frame that goes on in this cycle ends one cycle later than it does from the next state. -/
theorem FrameEnds.before {s u v t : State} {m : Nat} (h : FrameEnds u m v t) (hg : s.frameGoesOn = true)
    (hu : step s = .next u) : FrameEnds s (m + 1) v t :=
  ⟨by rw [along_succ hu, hg, h.goesOn]; rfl, (runCycles_succ hu m).trans h.run, h.last, h.final⟩

/-- R161: when the host does its part in every cycle, the frame under way ends after one cycle per byte. -/
theorem frameEnds_of_ready {m : Nat} {s : State} (hs : SeqInv s) (hyet : s.SendsYet (m + 1)) (hready : ReadyFor (m + 1) s) :
    ∃ v t, FrameEnds s m v t := by
  induction m generalizing s with
  | zero =>
    have hp := hyet.pos_iff_busy.1 (Nat.succ_pos _)
    obtain ⟨hf, u, hu⟩ := exists_step_of_hostReady hready.now hp hs.phase_reachable
    have hidle : ¬ u.phase ≠ .idle := (hyet.step_transfer (counted_of_inv hs) hf hu).pos_iff_busy.not.1 (lt_irrefl 0)
    have hlast : s.endsFrame = true := by
      by_contra he
      exact hidle (step_stays_busy hp (by simp [State.frameGoesOn, State.notReset, ((fireOut_iff s).1 hf).1, he]) hu)
    exact ⟨s, u, rfl, rfl, hlast, hu⟩
  | succ m ih =>
    have hp := hyet.pos_iff_busy.1 (Nat.succ_pos _)
    obtain ⟨hf, u, hu⟩ := exists_step_of_hostReady hready.now hp hs.phase_reachable
    have huyet := hyet.step_transfer (counted_of_inv hs) hf hu
    have hbusy : u.phase ≠ .idle := huyet.pos_iff_busy.1 (Nat.succ_pos _)
    have hmore : s.endsFrame = false := Bool.eq_false_of_not_eq_true fun he => hbusy (step_endsFrame_idle he hu)
    have hg : s.frameGoesOn = true := by simp [State.frameGoesOn, State.notReset, ((fireOut_iff s).1 hf).1, hmore]
    obtain ⟨v, t, hends⟩ := ih (step_seqInv hs hu) huyet (hready.later hu)
    exact ⟨v, t, hends.before hg hu⟩

/-- Up to the cycle of its last byte the block is busy. -/
theorem FrameEnds.busy_at {u v t : State} {m k : Nat} (h : FrameEnds u m v t) (hp : u.phase ≠ .idle) (hk : k ≤ m) :
    ∃ x, runCycles k u = .next x ∧ x.phase ≠ .idle := by
  induction k generalizing u m with
  | zero => exact ⟨u, rfl, hp⟩
  | succ k ih =>
    obtain ⟨m, rfl⟩ := Nat.exists_eq_add_one_of_ne_zero (by omega : m ≠ 0)
    obtain ⟨hg, y, hy, hends⟩ := h.next_cycle
    obtain ⟨x, hx, hbusy⟩ := ih hends (step_stays_busy hp hg hy) (by omega)
    exact ⟨x, (runCycles_succ hy k).trans hx, hbusy⟩

/-- R161: at full rate each cycle of a frame transfers a byte. -/
theorem FrameEnds.fireOut_at {u v t : State} {m k : Nat} (h : FrameEnds u m v t) (hs : SeqInv u) (hp : u.phase ≠ .idle)
    (hready : ReadyFor (m + 1) u) (hk : k < m + 1) :
    ∃ x, runCycles k u = .next x ∧ x.fireOut = true ∧ x.phase ≠ .idle := by
  obtain ⟨x, hx, hbusy⟩ := h.busy_at hp (Nat.le_of_lt_succ hk)
  have hxs : SeqInv x := run_keeps (fun _ _ => step_seqInv) hs hx
  exact ⟨x, hx, fireOut_of_hostReady (hready k x hk hx) hbusy hxs.phase_reachable, hbusy⟩

/-! #### The number of bytes of a frame -/

theorem nibblesFrom_length (c : Byte) (p : List Byte) : (nibblesFrom c p).length = 2 * (p.length + 1) := by
  induction p generalizing c with
  | nil => rfl
  | cons b p ih =>
    simp only [nibblesFrom, List.length_cons, ih]
    omega

/-- What the frame under way still sends has one length for all bytes that it may still take. -/
theorem frameLeft_length_congr (s : State) {d e : List Byte} (h : d.length = e.length) :
    (s.frameLeft d).length = (s.frameLeft e).length := by
  have hbody : (s.bodyLeft d).length = (s.bodyLeft e).length := by
    unfold State.bodyLeft
    cases s.phase <;> cases s.nib <;> simp [nibblesFrom_length, h]
  unfold State.frameLeft endFrame
  split
  · rfl
  · simp [hbody]

theorem afterAccept_sendsYet (i : Instr) (s : State) : (s.afterAccept i).SendsYet (2 * payloadLen i + 7) := by
  intro d hd
  rw [frameLeft_length_congr _ (hd.trans (afterAccept_dinLeft i s)), afterAccept_frameLeft, outBytes_length, frame_length,
    encode_length, Nat.add_comm]

/-- R76, R150: the payload length from the port values at an accept. -/
theorem payloadLen_of_fits {c : Instr} {pc : PortCmd} (h : portFits c pc = true) :
    payloadLen c = 1 + (if pc.kind = 0 ∨ pc.kind = 4 then 0 else 1) + if pc.kind = 1 then pc.len else 0 := by
  obtain ⟨k, p, l⟩ := pc
  cases c <;> simp only [portFits, Bool.and_eq_true, beq_iff_eq] at h
  case ping | quit => subst h; rfl
  case read | verify => obtain ⟨rfl, rfl⟩ := h; rfl
  case write => obtain ⟨⟨rfl, rfl⟩, rfl⟩ := h; simp [payloadLen]

theorem accept_sendsYet {s u : State} (hc : s.fireCmd = true) (hk : legalTag s.inputNow.cmdKind = true)
    (h : step s = .next u) :
    u.SendsYet (2 * (1 + (if s.inputNow.cmdKind = 0 ∨ s.inputNow.cmdKind = 4 then 0 else 1) +
      (if s.inputNow.cmdKind = 1 then s.inputNow.cmdLen else 0)) + 7) := by
  intro d hd
  obtain ⟨c, hfits, -, -, hframe⟩ := step_accept_frame ((fireCmd_iff s).1 hc).1 h hc hk hd
  have hlen := payloadLen_of_fits hfits
  rw [hframe, outBytes_length, frame_length, encode_length, hlen, Nat.add_comm]
  rfl

/-- R157: the accept of a command that the port can carry leads to a state of the machine. -/
theorem afterAccept_seqInv {i : Instr} {s : State} (hs : SeqInv s) (hp : s.phase = .idle) (hw : i.wf s.lenW = true) :
    SeqInv (s.afterAccept i) := by
  refine accept_seqInv hp (portOf_legal i s) hs.lenW_pos fun hk => ?_
  have hpres := portOf_presentable hw s
  simpa [presentable, hk] using hpres

/-- Settles O25: at full rate the frame ends, and up to its end it is the frame that the accept left to be sent. -/
theorem commandCompletesAtFullRate : Obligations.CommandCompletesAtFullRate := by
  intro i s hs hacc hw
  obtain ⟨-, hidle, -⟩ := (canAccept_iff s).1 hacc
  refine ⟨s.afterAccept i, exec_accept hacc hw, fun hready => ?_⟩
  have hyet := afterAccept_sendsYet i s
  obtain ⟨v, t, hends⟩ := frameEnds_of_ready (m := 2 * payloadLen i + 6) (afterAccept_seqInv hs hidle hw) hyet hready
  have hfin := hends.finishes (afterAccept_counted i s hw) (by simp [State.afterAccept])
  refine ⟨t, hends.runCycles_eq, hends.idle, ?_, hfin.count.trans (afterAccept_dinLeft i s)⟩
  have hsends := congrArg List.length hfin.sends
  rw [List.flatMap_nil, List.append_nil, hyet _ hfin.count] at hsends
  exact hsends

/-! ### Waiting (R161) -/

theorem hostWithholds_iff (s : State) :
    s.hostWithholds = true ↔ s.inputNow.rst = false ∧ s.dinStable = true ∧
      (s.inputNow.doutReady = false ∨ s.phase = .data ∧ s.nib = false ∧ s.inputNow.dinValid = false) := by
  simp [State.hostWithholds, State.notReset, and_assoc]

theorem fireOut_of_hostWithholds {s : State} (h : s.hostWithholds = true) : s.fireOut = false := by
  obtain ⟨-, -, hw⟩ := (hostWithholds_iff s).1 h
  apply Bool.eq_false_of_not_eq_true
  intro hf
  obtain ⟨-, ho, hd⟩ := (fireOut_iff s).1 hf
  rcases hw with hw | ⟨hp, hn, hv⟩
  · simp [hw] at hd
  · simp [State.offersByte, hp, hn, hv] at ho

/-- R161: as long as the host withholds its part, a busy block waits. -/
theorem exists_run_of_hostWithholds {n : Nat} {s : State} (hp : s.phase ≠ .idle) (hu : s.phase ≠ .unreachable)
    (h : ∀ k x, k < n → runCycles k s = .next x → x.hostWithholds = true) :
    ∃ t, runCycles n s = .next t ∧ along State.stalls n s = true := by
  induction n generalizing s with
  | zero => exact ⟨s, rfl, rfl⟩
  | succ n ih =>
    have hnow : s.hostWithholds = true := h 0 s (Nat.succ_pos n) rfl
    obtain ⟨hr, hd, -⟩ := (hostWithholds_iff s).1 hnow
    have hf := fireOut_of_hostWithholds hnow
    obtain ⟨v, hv⟩ := exists_step_of_busy hr hd hp hu
    obtain ⟨hphase, -⟩ := step_stall_sameRegisters hr (fireCmd_of_busy hp) hf hv
    obtain ⟨t, ht, hstalls⟩ := ih (hphase ▸ hp) (hphase ▸ hu) fun k x hk hx =>
      h (k + 1) x (Nat.succ_lt_succ hk) ((runCycles_succ hv k).trans hx)
    refine ⟨t, (runCycles_succ hv n).trans ht, ?_⟩
    rw [along_succ hv, hstalls, State.stalls, State.notReset, hr, hf]
    rfl

/-- Settles O58: at full rate the frame ends after one cycle per byte; without the host's part the run is one of stalls. -/
theorem progress : Obligations.Progress := by
  refine ⟨fun s u n hs hc hk h hn hready => ?rate, fun n s hp hu hw => ?waits⟩
  case rate =>
    replace hk := (legalTag_iff _).2 hk
    have hus := step_seqInv hs h
    have hbusy : u.phase ≠ .idle := by simp [step_accept hc hk h]
    obtain ⟨v, t, hends⟩ := frameEnds_of_ready (m := 2 * n + 6) hus (hn ▸ accept_sendsYet hc hk h) hready
    exact ⟨⟨t, hends.runCycles_eq, hends.idle⟩, fun k hk => hends.fireOut_at hus hbusy hready hk⟩
  case waits =>
    obtain ⟨t, ht, hstalls⟩ := exists_run_of_hostWithholds hp hu hw
    exact ⟨t, ht, run_stalls hp hstalls ht⟩

/-! ### The phases of the transfers (R156) -/

/-- The phases of the transfers after those of the opcode and `page_no`. -/
def State.phasesToEnd (s : State) : List Phase := List.replicate (2 * s.dinLeft) Phase.data ++ [Phase.csum, .csum, .ftr]

/-- The phases of the `page_no` transfers, for the commands that have one. -/
def State.phasesOfPageNo (s : State) : List Phase := if hasPageNo s.kind then [.pno, .pno] else []

/-- The phases of the output transfers that the frame under way still makes. -/
def State.phasesLeft (s : State) : List Phase :=
  match s.phase with
  | .hdr => List.replicate (4 - s.hidx.toNat) .hdr ++ .opc :: .opc :: (s.phasesOfPageNo ++ s.phasesToEnd)
  | .opc => (if s.nib then [.opc] else [.opc, .opc]) ++ (s.phasesOfPageNo ++ s.phasesToEnd)
  | .pno => (if s.nib then [.pno] else [.pno, .pno]) ++ s.phasesToEnd
  | .data => if s.nib then .data :: s.phasesToEnd else s.phasesToEnd
  | .csum => if s.nib then [.csum, .ftr] else [.csum, .csum, .ftr]
  | .ftr => [.ftr]
  | .idle | .unreachable => []

section
variable {s : State}

theorem phasesLeft_hdr (hp : s.phase = .hdr) :
    s.phasesLeft = List.replicate (4 - s.hidx.toNat) .hdr ++ .opc :: .opc :: (s.phasesOfPageNo ++ s.phasesToEnd) := by
  simp [State.phasesLeft, hp]

theorem phasesLeft_opc (hp : s.phase = .opc) (hn : s.nib = false) :
    s.phasesLeft = .opc :: .opc :: (s.phasesOfPageNo ++ s.phasesToEnd) := by
  simp [State.phasesLeft, hp, hn]

theorem phasesLeft_pno (hp : s.phase = .pno) (hn : s.nib = false) : s.phasesLeft = .pno :: .pno :: s.phasesToEnd := by
  simp [State.phasesLeft, hp, hn]

theorem phasesLeft_data (hp : s.phase = .data) (hn : s.nib = false) : s.phasesLeft = s.phasesToEnd := by
  simp [State.phasesLeft, hp, hn]

theorem phasesLeft_csum (hp : s.phase = .csum) (hn : s.nib = false) : s.phasesLeft = s.phasesToEnd := by
  simp [State.phasesLeft, State.phasesToEnd, State.dinLeft, hp, hn]

theorem phasesLeft_ftr (hp : s.phase = .ftr) : s.phasesLeft = [.ftr] := by
  simp [State.phasesLeft, hp]

end

theorem dinLeft_headerEdge {s : State} (hp : s.phase = .hdr) : (headerEdge s).dinLeft = s.dinLeft := by
  unfold headerEdge
  split <;> simp [State.dinLeft, hp]

theorem headerEdge_phasesLeft {s : State} (hp : s.phase = .hdr) (hn : s.nib = false) :
    s.phasesLeft = .hdr :: (headerEdge s).phasesLeft := by
  have hfield : (headerEdge s).phasesOfPageNo = s.phasesOfPageNo := by simp [State.phasesOfPageNo]
  have hend : (headerEdge s).phasesToEnd = s.phasesToEnd := by simp only [State.phasesToEnd, dinLeft_headerEdge hp]
  have hphase := headerEdge_phase s
  have hhidx := headerEdge_hidx s
  by_cases hx : s.hidx = 3
  · rw [if_pos hx] at hphase
    have hone : 4 - s.hidx.toNat = 1 := by rw [hx]; rfl
    rw [phasesLeft_hdr hp, phasesLeft_opc hphase ((headerEdge_nib s).trans hn), hfield, hend, hone]
    rfl
  · rw [if_neg hx] at hphase hhidx
    have hmore : 4 - s.hidx.toNat = 4 - (s.hidx + 1).toNat + 1 := by
      have hsucc := hidx_add_one hx
      omega
    rw [phasesLeft_hdr hp, phasesLeft_hdr (hphase.trans hp), hfield, hend, hhidx, hmore]
    rfl

theorem highNibbleEdge_phasesLeft {s : State} (hs : Counted s)
    (hp : s.phase = .opc ∨ s.phase = .pno ∨ s.phase = .data ∨ s.phase = .csum) (hn : s.nib = false) :
    s.phasesLeft = s.phase :: (highNibbleEdge s).phasesLeft := by
  have hfield : (highNibbleEdge s).phasesOfPageNo = s.phasesOfPageNo := rfl
  have hend : s.phase ≠ .data → (highNibbleEdge s).phasesToEnd = s.phasesToEnd := fun hd => by
    simp [State.phasesToEnd, State.dinLeft, hd]
  rcases hp with hp | hp | hp | hp
  · simp [State.phasesLeft, hp, hn, hfield, hend]
  · simp [State.phasesLeft, hp, hn, hend]
  · have hdec := decLen_add_one (hs.data_remaining hp hn) hs.remaining_width
    have htwo : 2 * s.remaining = 2 * decLen s.lenW s.remaining + 1 + 1 := by omega
    simp [State.phasesLeft, State.phasesToEnd, State.dinLeft, hp, hn, htwo, List.replicate_succ]
  · simp [State.phasesLeft, hp, hn]

theorem lowNibbleEdge_phasesLeft {s : State}
    (hp : s.phase = .opc ∨ s.phase = .pno ∨ s.phase = .data ∨ s.phase = .csum) (hn : s.nib = true) :
    s.phasesLeft = s.phase :: (lowNibbleEdge s).phasesLeft := by
  have hend : (lowNibbleEdge s).phasesToEnd = s.phasesToEnd := by
    rw [State.phasesToEnd, dinLeft_lowNibbleEdge hp]
    rfl
  rcases nextPhase_cases s.kind s.remaining hp with ⟨hq, hk, he⟩ | ⟨hq, -, he⟩ | ⟨hq, he⟩ | ⟨hq, he⟩
  · rw [phasesLeft_pno (s := lowNibbleEdge s) he rfl, hend]
    simp [State.phasesLeft, State.phasesOfPageNo, hq, hn, hk]
  · rw [phasesLeft_data (s := lowNibbleEdge s) he rfl, hend]
    rcases hq with ⟨hq, -⟩ | hq <;> simp [State.phasesLeft, hq, hn]
  · rw [phasesLeft_csum (s := lowNibbleEdge s) he rfl, hend]
    rcases hq with ⟨hq, hk⟩ | hq | hq
    · simp [State.phasesLeft, State.phasesOfPageNo, hq, hn, hk]
    · simp [State.phasesLeft, hq, hn]
    · simp [State.phasesLeft, hq, hn]
  · rw [phasesLeft_ftr (s := lowNibbleEdge s) he]
    simp [State.phasesLeft, hq, hn]

/-- R151 to R154: an output transfer is the first of those left. -/
theorem transferEdge_phasesLeft {s : State} (hs : Counted s) (hf : s.fireOut = true) :
    s.phasesLeft = s.phase :: (transferEdge s).phasesLeft := by
  rcases transferEdge_cases s with ⟨hp | hp, -⟩ | ⟨hp, he⟩ | ⟨hp, hn, he⟩ | ⟨hp, hn, he⟩ | ⟨hp, he⟩
  · simp [fireOut_of_idle hp] at hf
  · simp [State.fireOut, State.doutValid, State.offersByte, hp] at hf
  · rw [he, hp]
    exact headerEdge_phasesLeft hp (hs.hdr_nib hp)
  · rw [he]
    exact highNibbleEdge_phasesLeft hs hp hn
  · rw [he]
    exact lowNibbleEdge_phasesLeft hp hn
  · rw [he]
    simp [State.phasesLeft, hp]

/-- The transfers of a busy block are made in the phases that are left. -/
theorem step_phasesLeft {s t : State} (hs : Counted s) (hr : s.inputNow.rst = false) (hp : s.phase ≠ .idle)
    (h : step s = .next t) : s.phasesLeft = s.sendPhase ++ t.phasesLeft := by
  have ht := step_busy hr hp h
  cases hf : s.fireOut with
  | true =>
    rw [hf, if_pos rfl] at ht
    rw [ht, State.sendPhase, if_pos hf]
    exact transferEdge_phasesLeft hs hf
  | false =>
    rw [hf, if_neg Bool.false_ne_true] at ht
    rw [ht, State.sendPhase, hf]
    rfl

/-- R156: up to the end of a frame the transfers are made in the phases that were left. -/
theorem FrameEnds.sendPhases {u v t : State} {m : Nat} (h : FrameEnds u m v t) (hs : Counted u) (hp : u.phase ≠ .idle) :
    collect State.sendPhase (m + 1) u = u.phasesLeft := by
  induction m generalizing u with
  | zero =>
    obtain rfl : u = v := Host.Outcome.next.inj h.run
    obtain ⟨hf, hftr⟩ := (endsFrame_iff u).1 h.last
    rw [collect_succ h.final, State.sendPhase, if_pos hf, hftr]
    simp [State.phasesLeft, hftr]
  | succ m ih =>
    obtain ⟨hg, x, hx, hends⟩ := h.next_cycle
    have hr : u.inputNow.rst = false := by simpa [State.notReset] using (Bool.and_eq_true_iff.1 hg).1
    rw [collect_succ hx, ih hends (step_counted hr hx hs) (step_stays_busy hp hg hx), step_phasesLeft hs hr hp hx]

/-- R156: the phases that an accept leaves. -/
theorem accept_phasesLeft {s u : State} (hc : s.fireCmd = true) (hk : legalTag s.inputNow.cmdKind = true)
    (h : step s = .next u) :
    u.phasesLeft = List.replicate 4 Phase.hdr ++ List.replicate 2 Phase.opc ++
      (if s.inputNow.cmdKind = 0 ∨ s.inputNow.cmdKind = 4 then [] else List.replicate 2 Phase.pno) ++
      (if s.inputNow.cmdKind = 1 then List.replicate (2 * s.inputNow.cmdLen) Phase.data else []) ++
      List.replicate 2 Phase.csum ++ [Phase.ftr] := by
  obtain ⟨-, hleft⟩ := accept_dinLeft hc hk h
  obtain rfl := step_accept hc hk h
  simp only [State.phasesLeft, State.phasesToEnd, hleft, State.phasesOfPageNo]
  rcases legalTag_cases _ hk with hk | hk | hk | hk | hk <;> simp [hk, hasPageNo, State.portCmd]

/-- Settles O55: `FrameEnds.sendPhases` from the state after the accept. -/
theorem phaseSequence : Obligations.PhaseSequence := by
  intro s u m v t hs hc hk h hends
  replace hk := (legalTag_iff _).2 hk
  have hbusy : u.phase ≠ .idle := by simp [step_accept hc hk h]
  have hcounted := step_counted ((fireCmd_iff s).1 hc).1 h (counted_of_inv hs)
  rw [hends.sendPhases hcounted hbusy, accept_phasesLeft hc hk h]
  refine ⟨rfl, ?_⟩
  split <;> split <;> simp <;> omega

end Sys2Proof.Machine
end

section
/-! The output ports (R140 to R147): each as an equation, the byte on offer by phase, and which input ports it depends on. -/

namespace Sys2Proof.Machine

/-! ### The ports (R140, R142, R143, R145) -/

theorem dinReady_iff (s : State) :
    s.dinReady = true ↔ s.inputNow.rst = false ∧ s.phase = .data ∧ s.nib = false ∧ s.inputNow.doutReady = true := by
  simp [State.dinReady, and_assoc]

theorem doutValid_iff (s : State) : s.doutValid = true ↔ s.inputNow.rst = false ∧ s.offersByte = true := by
  simp [State.doutValid]

theorem doutLast_iff (s : State) : s.doutLast = true ↔ s.inputNow.rst = false ∧ s.phase = .ftr := by
  simp [State.doutLast]

/-- R143: in the phases of the machine. -/
theorem offersByte_iff {s : State} (hu : s.phase ≠ .unreachable) :
    s.offersByte = true ↔ s.phase ≠ .idle ∧ (s.phase = .data → s.nib = true ∨ s.inputNow.dinValid = true) := by
  unfold State.offersByte
  cases hp : s.phase with
  | unreachable => exact absurd hp hu
  | idle | hdr | opc | pno | data | csum | ftr => simp

/-- Settles O32: the row of R143 for the phase. -/
theorem outputValid : Obligations.OutputValid := fun s hu =>
  (doutValid_iff s).trans (and_congr_right fun _ => offersByte_iff hu)

/-! ### The byte on offer (R144) -/

section
variable {s : State} (hv : s.doutValid = true)
include hv

/-- Everything that can be on offer. -/
theorem doutData_cases :
    (s.phase = .hdr ∧ s.doutData = headerByte s.hidx) ∨
    ((s.phase = .opc ∨ s.phase = .pno ∨ s.phase = .data ∨ s.phase = .csum) ∧ s.doutData = s.nibbleByte) ∨
    (s.phase = .ftr ∧ s.doutData = footerByte) := by
  obtain ⟨-, ho⟩ := (doutValid_iff s).1 hv
  rw [State.doutData, if_pos hv]
  cases hp : s.phase with
  | idle | unreachable => simp [State.offersByte, hp] at ho
  | hdr | opc | pno | data | csum | ftr => simp

theorem doutData_hdr (hp : s.phase = .hdr) : s.doutData = headerByte s.hidx := by
  simp [State.doutData, hv, hp]

theorem doutData_ftr (hp : s.phase = .ftr) : s.doutData = footerByte := by
  simp [State.doutData, hv, hp]

theorem doutData_eq_nibbleByte (hp : s.phase = .opc ∨ s.phase = .pno ∨ s.phase = .data ∨ s.phase = .csum) :
    s.doutData = s.nibbleByte := by
  rcases hp with hp | hp | hp | hp <;> simp [State.doutData, hv, hp]

theorem doutData_high (hp : s.phase = .opc ∨ s.phase = .pno ∨ s.phase = .data ∨ s.phase = .csum) (hn : s.nib = false) :
    s.doutData = hiNibble s.cur := by
  simp [doutData_eq_nibbleByte hv hp, State.nibbleByte, hn]

theorem doutData_low (hp : s.phase = .opc ∨ s.phase = .pno ∨ s.phase = .data ∨ s.phase = .csum) (hn : s.nib = true) :
    s.doutData = loNibble s.hold := by
  simp [doutData_eq_nibbleByte hv hp, State.nibbleByte, hn]

end

theorem header_getElem? (x : BitVec 2) : header[x.toNat]? = some (headerByte x) := by
  revert x; decide

/-- Settles O30: in each row of R144 the byte is that of the lemma above, with `cur` by R141. -/
theorem outputData : Obligations.OutputData := by
  intro s hv
  refine ⟨fun hp => ?_, fun hp hn => ?_, fun hp hn => ?_, fun hp hn => ?_, fun hp hn => ?_,
    fun hp hn => doutData_low hv hp hn, fun hp => doutData_ftr hv hp⟩
  · exact (header_getElem? s.hidx).trans (congrArg some (doutData_hdr hv hp).symm)
  · exact (doutData_high hv (.inl hp) hn).trans (congrArg hiNibble (cur_opc hp))
  · exact (doutData_high hv (.inr (.inl hp)) hn).trans (congrArg hiNibble (cur_pno hp))
  · exact (doutData_high hv (.inr (.inr (.inl hp))) hn).trans (congrArg hiNibble (cur_data hp))
  · exact (doutData_high hv (.inr (.inr (.inr hp))) hn).trans (congrArg hiNibble (cur_csum hp))

/-- Settles O31: a byte is taken in `DATA` with `nib = 0`, where its high nibble is on offer. -/
theorem inputReady : Obligations.InputReady := by
  refine ⟨dinReady_iff, fun s hi => ?_⟩
  obtain ⟨-, hp, hn, -, -⟩ := (fireIn_iff s).1 hi
  have hf := fireOut_of_fireIn hi
  refine ⟨hf, ?_⟩
  exact (doutData_high (doutValid_of_fireOut hf) (.inr (.inr (.inl hp))) hn).trans (congrArg hiNibble (cur_data hp))

theorem headerByte_ne_footerByte (x : BitVec 2) : headerByte x ≠ footerByte := by
  revert x; decide

theorem nibbleByte_lt (s : State) : s.nibbleByte.toNat < 16 := by
  unfold State.nibbleByte
  split
  · exact loNibble_lt _
  · exact hiNibble_lt _

/-- R145, R235: of the bytes on offer only the footer is 0xF7. -/
theorem phase_ftr_of_doutData {s : State} (hv : s.doutValid = true) (hd : s.doutData = footerByte) : s.phase = .ftr := by
  rcases doutData_cases hv with ⟨-, he⟩ | ⟨-, he⟩ | ⟨hp, -⟩
  · exact absurd (he.symm.trans hd) (headerByte_ne_footerByte _)
  · have hlt := nibbleByte_lt s
    rw [← he, hd] at hlt
    exact absurd hlt (by decide)
  · exact hp

/-- Settles O33: `dout_last` is the phase `FTR`, which is where 0xF7 is on offer. -/
theorem outputLast : Obligations.OutputLast := by
  refine fun s => ⟨doutLast_iff s, fun hl => ?_, fun ⟨hv, hd⟩ => ?_⟩
  · obtain ⟨hr, hp⟩ := (doutLast_iff s).1 hl
    have hv : s.doutValid = true := (doutValid_iff s).2 ⟨hr, by simp [State.offersByte, hp]⟩
    exact ⟨hv, doutData_ftr hv hp⟩
  · exact (doutLast_iff s).2 ⟨((doutValid_iff s).1 hv).1, phase_ftr_of_doutData hv hd⟩

/-! ### The command port (R140) -/

/-- R140: outside `IDLE` a cycle is the one with no command on the port. -/
theorem cycle_busy {s : State} (hp : s.phase ≠ .idle) (offer : Option PortCmd) : cycle offer s = cycle none s := by
  have hc : s.cmdReady = false := by simp [State.cmdReady, hp]
  simp [cycle, hc, registerEdge_busy]

/-- Settles O26: a command's meaning is the cycle with it on the port. -/
theorem commandWaitsWhileBusy : Obligations.CommandWaitsWhileBusy := fun i s hp => by
  rw [exec_eq_cycle, cycle_busy hp]

/-- R151 to R154: no output transfer begins a frame. -/
theorem transferEdge_enters_hdr {s : State} (h : (transferEdge s).phase = .hdr) : s.phase = .hdr := by
  rcases transferEdge_cases s with ⟨-, he⟩ | ⟨hp, -⟩ | ⟨-, -, he⟩ | ⟨hp, -, he⟩ | ⟨-, he⟩
  case inr.inl => exact hp
  all_goals rw [he] at h
  · exact h
  · exact h
  · rw [lowNibbleEdge_phase] at h
    rcases nextPhase_cases s.kind s.remaining hp with ⟨-, -, hn⟩ | ⟨-, -, hn⟩ | ⟨-, hn⟩ | ⟨-, hn⟩ <;> simp [hn] at h
  · cases h

/-- Settles O29: with `cmd_ready = 0` and no reset the block is busy, and only an accept latches a command or begins a frame. -/
theorem commandReady : Obligations.CommandReady := by
  refine ⟨cmdReady_iff, fun s t hc hr h => ?_⟩
  have hp : s.phase ≠ .idle := fun hp => by
    have hready : s.cmdReady = true := (cmdReady_iff s).2 ⟨hr, hp⟩
    exact Bool.false_ne_true (hc.symm.trans hready)
  have hno := fireCmd_of_busy hp
  have hkeep : ¬ (t.kind ≠ s.kind ∨ t.pageNo ≠ s.pageNo) := fun hne => by
    simp [(step_kind_changes hr h hne).1] at hno
  obtain ⟨hkind, hpage⟩ := not_or.1 hkeep
  refine ⟨not_not.1 hkind, not_not.1 hpage, fun ht => ?_, hno⟩
  rw [step_busy hr hp h] at ht
  cases hf : s.fireOut with
  | true =>
    rw [hf] at ht
    exact transferEdge_enters_hdr ht
  | false =>
    rw [hf] at ht
    exact ht

/-! ### Paths within a cycle (R146) -/

section
variable {s : State} {a b : Inputs} (hr : a.rst = b.rst)
include hr

/-- The outputs depend on the input ports through `rst`, `din_ready`, whether a byte is on offer, and that byte. -/
theorem outputs_withPorts_congr (hd : (s.withPorts a).dinReady = (s.withPorts b).dinReady)
    (ho : (s.withPorts a).offersByte = (s.withPorts b).offersByte)
    (hb : (s.withPorts a).nibbleByte = (s.withPorts b).nibbleByte) : (s.withPorts a).outputs = (s.withPorts b).outputs := by
  have hv : (s.withPorts a).doutValid = (s.withPorts b).doutValid := by
    simp only [State.doutValid, withPorts_inputNow, hr, ho]
  have hdata : (s.withPorts a).doutData = (s.withPorts b).doutData := by
    unfold State.doutData
    rw [hv, hb]
    rfl
  have hc : (s.withPorts a).cmdReady = (s.withPorts b).cmdReady := by
    unfold State.cmdReady
    rw [withPorts_inputNow, withPorts_inputNow, hr]
    rfl
  have hl : (s.withPorts a).doutLast = (s.withPorts b).doutLast := by
    unfold State.doutLast
    rw [withPorts_inputNow, withPorts_inputNow, hr]
    rfl
  unfold State.outputs
  rw [hc, hd, hv, hdata, hl]
  rfl

/-- Outside `DATA` with `nib = 0` the outputs come from the registers and `rst`. -/
theorem outputs_withPorts_of_registers (hs : ¬ (s.phase = .data ∧ s.nib = false)) :
    (s.withPorts a).outputs = (s.withPorts b).outputs := by
  have hnib : s.phase = .data → s.nib = true := fun hp => by simpa using fun hn => hs ⟨hp, hn⟩
  apply outputs_withPorts_congr hr
  · have hoff : ∀ c, (s.withPorts c).dinReady = false := fun c =>
      Bool.eq_false_of_not_eq_true fun hd => hs ⟨((dinReady_iff _).1 hd).2.1, ((dinReady_iff _).1 hd).2.2.1⟩
    rw [hoff a, hoff b]
  · unfold State.offersByte
    rw [withPorts_phase, withPorts_phase]
    cases hp : s.phase with
    | data => simp [hnib hp]
    | idle | hdr | opc | pno | csum | ftr | unreachable => rfl
  · unfold State.nibbleByte State.cur
    rw [withPorts_phase, withPorts_phase, withPorts_nib, withPorts_nib]
    cases hp : s.phase with
    | data => rw [hnib hp]; rfl
    | idle | hdr | opc | pno | csum | ftr | unreachable => rfl

end

/-- Settles O34: `outputs_withPorts_congr` twice, and in `DATA` with `nib = 0` the equations of the three ports. -/
theorem combinationalPaths : Obligations.CombinationalPaths := by
  refine ⟨fun s a b hr hs => outputs_withPorts_of_registers hr hs, fun s a b hr hv hd ho => ?din, fun s hp hn hr => ?data⟩
  case din =>
    apply outputs_withPorts_congr hr
    · simp only [State.dinReady, withPorts_inputNow, hr, ho]
      rfl
    · simp only [State.offersByte, withPorts_inputNow, hv]
      rfl
    · simp only [State.nibbleByte, State.cur, withPorts_inputNow, hd]
      rfl
  case data =>
    have hvalid : s.doutValid = s.inputNow.dinValid := by simp [State.doutValid, State.offersByte, hr, hp, hn]
    refine ⟨hvalid, by simp [State.outputs, State.dinReady, hr, hp, hn], fun hv => ?_⟩
    have hdata := doutData_high (hvalid.trans hv) (.inr (.inr (.inl hp))) hn
    rw [cur_data hp, hiNibble_eq_extractLsb'] at hdata
    exact hdata

/-! ### A stable offer (R147) -/

section
variable {s t : State} (hregs : sameRegisters s t)
include hregs

theorem offersByte_of_sameRegisters (hv : s.phase = .data → s.nib = false → t.inputNow.dinValid = s.inputNow.dinValid) :
    t.offersByte = s.offersByte := by
  obtain ⟨hphase, -, hnib, -⟩ := hregs
  unfold State.offersByte
  rw [hphase, hnib]
  cases hp : s.phase with
  | data =>
    cases hn : s.nib with
    | true => rfl
    | false => simp [hv hp hn]
  | idle | hdr | opc | pno | csum | ftr | unreachable => rfl

theorem nibbleByte_of_sameRegisters (hp : s.phase = .opc ∨ s.phase = .pno ∨ s.phase = .data ∨ s.phase = .csum)
    (hd : s.phase = .data → s.nib = false → t.inputNow.dinData = s.inputNow.dinData) : t.nibbleByte = s.nibbleByte := by
  obtain ⟨hphase, -, hnib, hkind, hpage, -, hhold, hcsum⟩ := hregs
  unfold State.nibbleByte State.cur
  rw [hphase, hnib, hhold, hkind, hpage, hcsum]
  cases hn : s.nib with
  | true => rfl
  | false => rcases hp with hp | hp | hp | hp <;> simp [hp, hd, hn]

end

/-- Settles O35: the cycle is a stall, and with the same registers and the same `din` offer the same byte is on offer. -/
theorem offerIsStable : Obligations.OfferIsStable := by
  intro s t hv hd h hrt hdin
  obtain ⟨hr, ho⟩ := (doutValid_iff s).1 hv
  have hbusy : s.phase ≠ .idle := fun hp => by simp [State.offersByte, hp] at ho
  have hf : s.fireOut = false := Bool.eq_false_of_not_eq_true fun hf => by simp [((fireOut_iff s).1 hf).2.2] at hd
  have hregs := step_stall_sameRegisters hr (fireCmd_of_busy hbusy) hf h
  have hot := offersByte_of_sameRegisters hregs fun hp hn => (hdin hp hn).1
  have hvt : t.doutValid = true := (doutValid_iff t).2 ⟨hrt, hot.trans ho⟩
  refine ⟨hregs, hvt, ?_⟩
  change t.doutData = s.doutData
  have ⟨hphase, hhidx, _⟩ := hregs
  rcases doutData_cases hv with ⟨hp, he⟩ | ⟨hp, he⟩ | ⟨hp, he⟩
  · rw [he, doutData_hdr hvt (hphase.trans hp), hhidx]
  · rw [he, doutData_eq_nibbleByte hvt (hphase.symm ▸ hp)]
    exact nibbleByte_of_sameRegisters hregs hp fun hp hn => (hdin hp hn).2
  · rw [he, doutData_ftr hvt (hphase.trans hp)]

end Sys2Proof.Machine
end

section
/-! The exception (R201, R203): when `err` is set, and that the `err_clr` port writes `err` and nothing else. -/

namespace Sys2Proof.Machine

/-! ### What sets the flag -/

/-- `set_illegal` of R203 is the accept, in `IDLE`, of a reserved tag. -/
theorem setIllegal_eq (s : State) :
    (s.fireCmd && !legalTag s.inputNow.cmdKind) =
      (s.fireCmd && decide (s.phase = .idle) && decide (5 ≤ s.inputNow.cmdKind.toNat)) := by
  rw [Bool.eq_iff_iff]
  simp only [Bool.and_eq_true, Bool.not_eq_true', legalTag_eq_false_iff, decide_eq_true_eq]
  exact ⟨fun ⟨hc, hk⟩ => ⟨⟨hc, ((fireCmd_iff s).1 hc).2.1⟩, hk⟩, fun ⟨⟨hc, _⟩, hk⟩ => ⟨hc, hk⟩⟩

/-! ### The next state as a function of `err_clr` -/

/-- `s` with another value on the `err_clr` port in this cycle. -/
def State.withErrClr (s : State) (c : Bool) : State := s.withPorts { s.inputNow with errClr := c }

theorem headerEdge_withErrClr (s : State) (c : Bool) : headerEdge (s.withErrClr c) = (headerEdge s).withErrClr c := by
  unfold headerEdge
  rw [apply_ite (State.withErrClr · c)]
  rfl

theorem nibbleEdge_withErrClr (s : State) (c : Bool) : nibbleEdge (s.withErrClr c) = (nibbleEdge s).withErrClr c := by
  unfold nibbleEdge
  rw [apply_ite (State.withErrClr · c)]
  rfl

/-- R151 to R154: an output transfer does not read `err_clr`. -/
theorem transferEdge_withErrClr (s : State) (c : Bool) :
    transferEdge (s.withErrClr c) = (transferEdge s).withErrClr c := by
  have hp : (s.withErrClr c).phase = s.phase := rfl
  unfold transferEdge
  rw [hp, headerEdge_withErrClr, nibbleEdge_withErrClr]
  cases s.phase <;> rfl

/-- The registers after an edge, but for the flag, do not depend on `err_clr`. -/
theorem registerEdge_withErrClr (offer : Option PortCmd) (s : State) (c x : Bool) :
    (registerEdge offer (s.withErrClr c)).withErr x = ((registerEdge offer s).withErr x).withErrClr c := by
  cases hc : s.cmdReady with
  | false =>
    have hf : (s.withErrClr c).fireOut = s.fireOut := rfl
    rw [registerEdge_busy hc, registerEdge_busy (s := s.withErrClr c) hc, hf, transferEdge_withErrClr]
    cases s.fireOut <;> rfl
  | true =>
    cases offer with
    | none => rw [registerEdge_no_offer hc, registerEdge_no_offer (s := s.withErrClr c) hc]; rfl
    | some pc =>
      rw [registerEdge_accept hc, registerEdge_accept (s := s.withErrClr c) hc]
      cases hk : legalTag pc.kind with
      | true => rw [acceptCmd_legal hk, acceptCmd_legal hk]; rfl
      | false => rw [acceptCmd_reserved hk, acceptCmd_reserved hk]; rfl

section
variable {s t t' : State} {c : Bool} (h : step s = .next t) (h' : step (s.withErrClr c) = .next t')
include h h'

/-- R203: reset goes before the clear. -/
theorem step_reset_withErrClr (hr : s.inputNow.rst = true) : t' = t := by
  rw [step_reset_next hr h, step_reset_next (s := s.withErrClr c) hr h']
  rfl

/-- Under another `err_clr` the next state differs at most in the flag. -/
theorem step_withErrClr : t'.withErr t.err = t := by
  rcases step_cases h with ⟨hr, -⟩ | ⟨hr, -, -, -, ht⟩
  · rw [step_reset_withErrClr h h' hr]
    rfl
  · rcases step_cases h' with ⟨hr', -⟩ | ⟨-, -, -, -, ht'⟩
    · exact absurd (hr.symm.trans hr') (by decide)
    · rw [ht, ht']
      exact congrArg (endCycle (s.withErrClr c)) (registerEdge_withErrClr (offerNow s) s c _)

end

/-- Settles O44: R203's equation `step_err`, and that `err_clr` reaches the flag only. -/
theorem errUpdate : Obligations.ErrUpdate := by
  refine ⟨fun s t h => ?update, fun s a c t t' h h' =>
    ⟨step_withErrClr h h', step_reset_withErrClr (s := s.withPorts a) h h'⟩⟩
  rw [step_err h, setIllegal_eq]
  rfl

/-! ### IllegalCommand -/

/-- R203: only `set_illegal` takes the flag from 0 to 1. -/
theorem set_of_errNext {rst ill clr : Bool} (h : errNext rst ill clr false = true) : ill = true := by
  have hne : errNext rst ill clr false ≠ false := by simp [h]
  rcases errNext_changes hne with ⟨-, hi⟩ | ⟨hf, -⟩
  · exact hi
  · cases h.symm.trans hf

/-- Settles O45: the effect is `AcceptEdge` for a reserved tag with the flag set by `step_illegal`, and the cause is
R203's equation. -/
theorem illegalCommand : Obligations.IllegalCommand := by
  refine ⟨fun s hc hp hk hd => ?effect, fun s t h h0 h1 => ?cause, fun s h => ?code⟩
  case effect =>
    obtain ⟨-, -, reserved⟩ := acceptEdge
    obtain ⟨t, ht, hregs, -, herr, hsends⟩ := reserved s hp hc hd hk
    exact ⟨t, ht, hregs, herr, herr, if_pos herr, doutValid_of_idle hp, hsends,
      takes_of_not_fireIn (fireIn_of_fireCmd hc)⟩
  case cause =>
    rw [step_err h, h0, setIllegal_eq] at h1
    simpa [and_assoc] using set_of_errNext h1
  case code => simp [State.excCode, h]

end Sys2Proof.Machine
end

section
/-! Reset and the hazards of the host's moves (R220, R222, R231, R236): the reset edge, holding it, the status outputs around an
accept, and the duty to keep a `din` offer. -/

namespace Sys2Proof.Machine

/-! ### A cycle with `rst = 1` (R220) -/

section
variable {s : State} (hr : s.inputNow.rst = true)
include hr

theorem cmdReady_of_rst : s.cmdReady = false := by simp [State.cmdReady, hr]

theorem dinReady_of_rst : s.dinReady = false := by simp [State.dinReady, hr]

theorem doutValid_of_rst : s.doutValid = false := by simp [State.doutValid, hr]

theorem doutLast_of_rst : s.doutLast = false := by simp [State.doutLast, hr]

theorem fireCmd_of_rst : s.fireCmd = false := by rw [fireCmd_eq, cmdReady_of_rst hr, Bool.false_and]

/-- Reset goes before the command port: the outcome is decided by R231 alone. -/
theorem cycle_rst_offer_congr (o o' : Option PortCmd) : cycle o s = cycle o' s := by
  cases hd : s.dinStable with
  | true => rw [cycle_reset hr hd, cycle_reset hr hd]
  | false => rw [cycle_unstable (.inl hr) hd, cycle_unstable (.inl hr) hd]

theorem exec_eq_step_of_rst (i : Instr) : exec i s = step s := by
  rw [exec_eq_cycle, step_eq_cycle]
  exact cycle_rst_offer_congr hr _ _

/-- The registers that R31 specifies after a reset edge. -/
theorem step_reset_registers {t : State} (h : step s = .next t) :
    t.phase = .idle ∧ t.hidx = 0 ∧ t.nib = false ∧ t.err = false := by
  rw [step_reset_next hr h]
  exact ⟨rfl, rfl, rfl, rfl⟩

end

/-- Settles O48: with `rst = 1` every port and transfer is off, and R231, where it is a duty, is all that the edge needs. -/
theorem resetEdge : Obligations.ResetEdge := by
  intro s hr
  refine ⟨cmdReady_of_rst hr, dinReady_of_rst hr, doutValid_of_rst hr, doutLast_of_rst hr, fireCmd_of_rst hr,
    fireIn_of_rst hr, fireOut_of_rst hr, exec_eq_step_of_rst hr, fun hp => dinStable_of_none (dinOwed_reset_busy hr hp),
    fun hd => ?next⟩
  have ht := step_reset hr hd
  obtain ⟨hphase, hhidx, hnib, herr⟩ := step_reset_registers hr ht
  exact ⟨_, ht, hphase, hhidx, hnib, herr, step_lenW ht⟩

/-! ### Holding `rst` (R222) -/

/-- Reset held for any number of cycles transfers nothing. -/
theorem run_reset_transfers {n : Nat} {s : State} (ha : along (fun x => x.inputNow.rst) n s = true) :
    collect State.sends n s = [] ∧ collect State.takes n s = [] := by
  induction n generalizing s with
  | zero => exact ⟨rfl, rfl⟩
  | succ n ih =>
    obtain ⟨hr, u, hu, hau⟩ := along_succ_true ha
    obtain ⟨hsends, htakes⟩ := ih hau
    constructor
    · rw [collect_succ hu, sends_of_not_fireOut (fireOut_of_rst hr), hsends, List.nil_append]
    · rw [collect_succ hu, takes_of_not_fireIn (fireIn_of_rst hr), htakes, List.nil_append]

/-- After reset held for at least one cycle the registers are those of its last edge. -/
theorem run_reset_registers {n : Nat} {s t : State} (ha : along (fun x => x.inputNow.rst) (n + 1) s = true)
    (h : runCycles (n + 1) s = .next t) : t.phase = .idle ∧ t.hidx = 0 ∧ t.nib = false ∧ t.err = false := by
  induction n generalizing s with
  | zero =>
    obtain ⟨hr, u, hu, -⟩ := along_succ_true ha
    rw [runCycles_succ hu, runCycles_zero, Host.Outcome.next.injEq] at h
    exact h ▸ step_reset_registers hr hu
  | succ n ih =>
    obtain ⟨-, u, hu, hau⟩ := along_succ_true ha
    exact ih hau ((runCycles_succ hu (n + 1)).symm.trans h)

theorem busy_eq_false_iff (s : State) : s.busy = false ↔ s.phase = .idle := by
  simp [State.busy]

/-- Settles O49: the last reset edge leaves `IDLE` with `err = 0`, which the outputs of the next cycle show. -/
theorem firstCycleAfterReset : Obligations.FirstCycleAfterReset := by
  intro n s t ha h
  obtain ⟨hphase, hhidx, hnib, herr⟩ := run_reset_registers ha h
  obtain ⟨hsends, htakes⟩ := run_reset_transfers ha
  exact ⟨hphase, hhidx, hnib, herr, hsends, htakes, fun hr =>
    ⟨(cmdReady_iff t).2 ⟨hr, hphase⟩, (busy_eq_false_iff t).2 hphase, herr, doutValid_of_idle hphase⟩⟩

/-! ### The status outputs around an accept (R236, R246) -/

/-- What a block offers at the start of its header. -/
theorem offers_first_headerByte {t : State} (hp : t.phase = .hdr) (hx : t.hidx = 0) (hr : t.inputNow.rst = false) :
    t.doutValid = true ∧ t.doutData = 0xF0 ∧ t.doutLast = false := by
  have hv : t.doutValid = true := (doutValid_iff t).2 ⟨hr, (offersByte_iff (by simp [hp])).2 (by simp [hp])⟩
  refine ⟨hv, ?_, ?_⟩
  · rw [doutData_hdr hv hp, hx]
    rfl
  · simp [State.doutLast, hp]

/-- Settles O47: the accept of a legal tag enters the header at its first byte, and that of a reserved one stays in `IDLE`. -/
theorem statusAfterAccept : Obligations.StatusAfterAccept := by
  intro s t hc h
  obtain ⟨-, hp, -⟩ := (fireCmd_iff s).1 hc
  refine ⟨(busy_eq_false_iff s).2 hp, fun hk => ?legal, fun hk => ?reserved⟩
  case legal =>
    have ht := step_accept hc ((legalTag_iff _).2 hk) h
    have hphase : t.phase = .hdr := by rw [ht]; rfl
    have hhidx : t.hidx = 0 := by rw [ht]; rfl
    exact ⟨decide_eq_true (by simp [hphase]), offers_first_headerByte hphase hhidx⟩
  case reserved =>
    rw [step_illegal hc ((legalTag_eq_false_iff _).2 hk) h]
    exact ⟨(busy_eq_false_iff _).2 hp, rfl⟩

/-! ### The duty to keep a `din` offer (R231) -/

/-- R231, the start: a byte offered and not taken is owed. -/
theorem nextDinOffer_of_offer {s : State} (hr : s.inputNow.rst = false) (hv : s.inputNow.dinValid = true)
    (hi : s.fireIn = false) : s.nextDinOffer = some s.inputNow.dinData := by
  simp [State.nextDinOffer, hr, hv, hi]

/-- A reset adds nothing to the duty there is. -/
theorem nextDinOffer_of_rst {s : State} (hr : s.inputNow.rst = true) : s.nextDinOffer = s.dinOwed := by
  simp [State.nextDinOffer, hr]

/-- R231, the end: after a step that takes the byte, has none on offer, or is a reset of a busy block. -/
theorem nextDinOffer_eq_none {s : State} (hd : s.dinStable = true)
    (he : s.fireIn = true ∨ s.inputNow.dinValid = false ∨ (s.inputNow.rst = true ∧ s.phase ≠ .idle)) :
    s.nextDinOffer = none := by
  rcases nextDinOffer_cases hd with hnone | ⟨hv, hi, -⟩
  · exact hnone
  · rcases he with hi' | hv' | ⟨hr, hp⟩
    · simp [hi] at hi'
    · simp [hv] at hv'
    · rw [nextDinOffer_of_rst hr, dinOwed_reset_busy hr hp]

/-- R231, the breach: the owed byte is withdrawn or another one is on offer. -/
theorem dinStable_eq_false {s : State} {b : Byte} (ho : s.dinOwed = some b)
    (hb : ¬ (s.inputNow.dinValid = true ∧ s.inputNow.dinData = b)) : s.dinStable = false :=
  Bool.eq_false_iff.2 fun hd => hb ((dinStable_iff ho).1 hd)

/-- Settles O51: start, keeping and end by the equation of `nextDinOffer`, the breach by `cycle_unstable`. -/
theorem dinOfferMustStay : Obligations.DinOfferMustStay := by
  refine ⟨fun s t h hr hv hi => (step_dinOffer h).trans (nextDinOffer_of_offer hr hv hi),
    fun s t h hr hp => (step_dinOffer h).trans ((nextDinOffer_of_rst hr).trans (dinOwed_idle hp)),
    fun s t h he => (step_dinOffer h).trans (nextDinOffer_eq_none (step_dinStable h) he),
    fun s b ho hb hcase => ?breach, fun s hn => ?noDuty⟩
  case breach =>
    have howed : s.dinOwed = some b := by
      rcases hcase with ⟨hr, -⟩ | ⟨-, hp⟩
      · exact (dinOwed_run hr).trans ho
      · exact (dinOwed_idle hp).trans ho
    have hrefused := cycle_unstable (hcase.symm.imp And.left And.right) (dinStable_eq_false howed hb)
    exact ⟨(step_eq_cycle s).trans (hrefused _), fun i => (exec_eq_cycle i s).trans (hrefused _)⟩
  case noDuty =>
    rcases hn with hn | ⟨hr, hp⟩
    · exact dinStable_of_none (by simp [State.dinOwed, hn])
    · exact dinStable_of_none (dinOwed_reset_busy hr hp)

end Sys2Proof.Machine
end
